-- ==== Sys2Proof/Word.lean ====
section
/-! DEFINITION. The two widths of the hardware: one register or transport word is 16 bits, one packed field is 8 bits
(00_scope.md R6). Every value is unsigned. -/

namespace Sys2Proof

/-- `BYTE`: one packed field, and the control value (00_scope.md R6). -/
abbrev Byte := BitVec 8

/-- `WORD`: one register, one transport word, `u16` (00_scope.md R6, 20_memory.md R51). -/
abbrev Word := BitVec 16

end Sys2Proof
end

