-- ==== Sys2Proof/Syntax.lean ====
section
/-! DEFINITION. The eight operations of the codec, one constructor per row of spec/opcode_table.json (00_scope.md R2,
30_encoding.md R80), and the request by which a host presents one (10_state.md R24). -/

namespace Sys2Proof

/-- ControlCommand (10_state.md R27): five independent flags, all 32 combinations are values. The flag 40_command_encoder.md
R100 calls "mode" is `parameterlessMode` (90_conflicts.md C15). -/
structure ControlCommand where
  enable            : Bool
  parameterlessMode : Bool
  moveToTarget      : Bool
  emergencyRelease  : Bool
  releaseDirection  : Bool
  deriving DecidableEq, Repr

/-- The operation set (00_scope.md R2). An operand has exactly the width of its port (10_state.md R24), so every value of
this type is an operation with operands the block accepts (30_encoding.md R87). -/
inductive Instr where
  /-- `ENC_CONTROL enable, mode, moveToTarget, emergencyRelease, releaseDirection` (R100) -/
  | encControl (cmd : ControlCommand)
  /-- `ENC_POSITION position` (R101): 16 bits, though the legal range is 0..255 -/
  | encPosition (position : Word)
  /-- `ENC_SPEED_FORCE speed, force` (R102) -/
  | encSpeedForce (speed force : Byte)
  /-- `DEC_STATUS word` (R110) -/
  | decStatus (word : Word)
  /-- `DEC_FAULT byte` (R112): the byte is the low byte of the 16-bit port -/
  | decFault (word : Word)
  /-- `DEC_FAULT_POSITION word` (R113) -/
  | decFaultPosition (word : Word)
  /-- `DEC_SPEED_FORCE word` (R114) -/
  | decSpeedForce (word : Word)
  /-- `DEC_VOLTAGE_TEMPERATURE word` (R115) -/
  | decVoltageTemperature (word : Word)
  deriving DecidableEq, Repr

/-- A request: the value of the input ports, all sampled together, each under its own name (10_state.md R24). -/
structure Request where
  op                 : BitVec 3
  cEnable            : Bool
  cParameterlessMode : Bool
  cMoveToTarget      : Bool
  cEmergencyRelease  : Bool
  cReleaseDirection  : Bool
  position           : Word
  speed              : Byte
  force              : Byte
  word               : Word
  deriving DecidableEq, Repr

end Sys2Proof
end

