-- ==== Sys2Proof/WellFormed.lean ====
section
/-! DEFINITION. The checks on instructions and requests. The block itself refuses nothing: "no request is illegal" and
"every value of every operand port is accepted" (30_encoding.md R87), so `Instr.wellFormed` holds of every instruction.
The other two checks name sub-classes the spec speaks of: operands inside the document's legal ranges, and requests
whose unused ports are quiet (what the encoder builds). -/

namespace Sys2Proof

/-- An instruction the block accepts. Every one is (30_encoding.md R87, 00_scope.md R10). -/
def Instr.wellFormed : Instr → Bool
  | .encControl _            => true
  | .encPosition _           => true
  | .encSpeedForce _ _       => true
  | .decStatus _             => true
  | .decFault _              => true
  | .decFaultPosition _      => true
  | .decSpeedForce _         => true
  | .decVoltageTemperature _ => true

/-- Operands inside the document's ranges (10_state.md R28): a target position is 0..255, "Constraining to a byte is the
caller's responsibility" (40_command_encoder.md R101). The block accepts the others too. -/
def Instr.inLegalRange : Instr → Bool
  | .encControl _            => true
  | .encPosition position    => decide (position.toNat ≤ 255)
  | .encSpeedForce _ _       => true
  | .decStatus _             => true
  | .decFault _              => true
  | .decFaultPosition _      => true
  | .decSpeedForce _         => true
  | .decVoltageTemperature _ => true

/-- The five `c_` ports of a request as one command (10_state.md R24, R27). -/
def Request.command (r : Request) : ControlCommand :=
  { enable := r.cEnable, parameterlessMode := r.cParameterlessMode, moveToTarget := r.cMoveToTarget,
    emergencyRelease := r.cEmergencyRelease, releaseDirection := r.cReleaseDirection }

/-- All five flags false: what the `c_` ports of a quiet request carry. -/
def ControlCommand.allFalse : ControlCommand :=
  { enable := false, parameterlessMode := false, moveToTarget := false, emergencyRelease := false,
    releaseDirection := false }

/-- A request whose ports not used by its operation are zero (10_state.md R24 gives the users of each port). The block
does not ask for it: those ports "may hold any value". -/
def Request.canonical (r : Request) : Bool :=
  let commandQuiet  := decide (r.command = ControlCommand.allFalse)
  let positionQuiet := decide (r.position = 0)
  let pairQuiet     := decide (r.speed = 0) && decide (r.force = 0)
  let wordQuiet     := decide (r.word = 0)
  if r.op = 0 then positionQuiet && pairQuiet && wordQuiet
  else if r.op = 1 then commandQuiet && pairQuiet && wordQuiet
  else if r.op = 2 then commandQuiet && positionQuiet && wordQuiet
  else commandQuiet && positionQuiet && pairQuiet

end Sys2Proof
end

