-- ==== Sys2Proof/Decode.lean ====
section
/-! DEFINITION. From the request ports to an instruction (30_encoding.md R80) and back, and the same over bytes. The spec
gives the request as named ports and no packing of them (92_eei_decisions.md D4); the seven bytes used here are the model's
own way of writing the ports down as one word (DESIGN CHOICE: notes/assumptions/2). -/

namespace Sys2Proof

/-! ### The operation select -/

/-- The 3-bit code of each operation (30_encoding.md R80). -/
def opcode : Instr → BitVec 3
  | .encControl _            => 0b000#3
  | .encPosition _           => 0b001#3
  | .encSpeedForce _ _       => 0b010#3
  | .decStatus _             => 0b011#3
  | .decFault _              => 0b100#3
  | .decFaultPosition _      => 0b101#3
  | .decSpeedForce _         => 0b110#3
  | .decVoltageTemperature _ => 0b111#3

/-- The operation a request selects, with its operands taken from the ports R24 names for it. The bits of `op` are matched
from the highest down, as the table of 30_encoding.md R80 writes them. Total: all eight codes are assigned (R87). -/
def decodeRequest (r : Request) : Instr :=
  match r.op.getLsbD 2, r.op.getLsbD 1, r.op.getLsbD 0 with
  | false, false, false => .encControl r.command
  | false, false, true  => .encPosition r.position
  | false, true,  false => .encSpeedForce r.speed r.force
  | false, true,  true  => .decStatus r.word
  | true,  false, false => .decFault r.word
  | true,  false, true  => .decFaultPosition r.word
  | true,  true,  false => .decSpeedForce r.word
  | true,  true,  true  => .decVoltageTemperature r.word

/-! ### The request as seven bytes

The ports in the order of R24's table, from bit 0 up: `op` 2:0, the five `c_` ports 7:3, `position` 23:8, `speed` 31:24,
`force` 39:32, `word` 55:40. A multi-byte port has its low byte first. -/

/-- How many bytes a request takes. -/
def requestBytes : Nat := 7

/-- Why bytes are no request. -/
inductive DecodeError where
  /-- fewer than seven bytes: the ports are sampled all together (10_state.md R24), so part of a request is none -/
  | tooShort (length : Nat)
  /-- more than seven bytes: every request has one fixed shape (30_encoding.md R89) -/
  | tooLong (length : Nat)
  deriving DecidableEq, Repr

/-- A 16-bit port from its two bytes. -/
def joinBytes (high low : Byte) : Word := BitVec.ofNat 16 (high.toNat * 256 + low.toNat)

/-- The ports from seven bytes; any other number of bytes is rejected by name. -/
def Request.ofBytes : List Byte → Except DecodeError Request
  | [b0, b1, b2, b3, b4, b5, b6] => .ok
      { op := b0.extractLsb' 0 3
        cEnable := b0.getLsbD 3
        cParameterlessMode := b0.getLsbD 4
        cMoveToTarget := b0.getLsbD 5
        cEmergencyRelease := b0.getLsbD 6
        cReleaseDirection := b0.getLsbD 7
        position := joinBytes b2 b1
        speed := b3
        force := b4
        word := joinBytes b6 b5 }
  | bytes => .error (if bytes.length < requestBytes then .tooShort bytes.length else .tooLong bytes.length)

/-- The instruction seven bytes stand for. -/
def decode (bytes : List Byte) : Except DecodeError Instr :=
  (Request.ofBytes bytes).map decodeRequest

/-- A number as `k` bytes, the least significant first. -/
def bytesOfNat : Nat → Nat → List Byte
  | 0, _ => []
  | k + 1, n => BitVec.ofNat 8 n :: bytesOfNat k (n / 256)

/-- The bytes of an instruction whose first `nbits` bits are `w`: seven, the bits above `nbits` zero, or as many as
`nbits` needs. -/
def tableWordBytes (nbits w : Nat) : List Byte :=
  bytesOfNat (max requestBytes ((nbits + 7) / 8)) (w % 2 ^ nbits)

/-- What the decoder reads from a word of spec/opcode_table.json. The table gives a row the three bits of `op`, which are
bits 2:0 of the first byte; the operand ports are the bits above. -/
def decodeTableWord (nbits w : Nat) : Option Instr :=
  (decode (tableWordBytes nbits w)).toOption

/-! ### The encoder -/

/-- A request with every port at zero. -/
def Request.quiet : Request :=
  { op := 0, cEnable := false, cParameterlessMode := false, cMoveToTarget := false, cEmergencyRelease := false,
    cReleaseDirection := false, position := 0, speed := 0, force := 0, word := 0 }

/-- The request that presents an instruction: its code on `op` (30_encoding.md R80), its operands on the ports R24 names,
the other ports zero. -/
def encodeRequest (i : Instr) : Request :=
  match i with
  | .encControl cmd          =>
      { Request.quiet with
        op := opcode i, cEnable := cmd.enable, cParameterlessMode := cmd.parameterlessMode,
        cMoveToTarget := cmd.moveToTarget, cEmergencyRelease := cmd.emergencyRelease,
        cReleaseDirection := cmd.releaseDirection }
  | .encPosition position    => { Request.quiet with op := opcode i, position := position }
  | .encSpeedForce speed force => { Request.quiet with op := opcode i, speed := speed, force := force }
  | .decStatus word          => { Request.quiet with op := opcode i, word := word }
  | .decFault word           => { Request.quiet with op := opcode i, word := word }
  | .decFaultPosition word   => { Request.quiet with op := opcode i, word := word }
  | .decSpeedForce word      => { Request.quiet with op := opcode i, word := word }
  | .decVoltageTemperature word => { Request.quiet with op := opcode i, word := word }

/-- The low byte of a 16-bit port. -/
def lowPart (w : Word) : Byte := BitVec.ofNat 8 w.toNat

/-- The high byte of a 16-bit port. -/
def highPart (w : Word) : Byte := BitVec.ofNat 8 (w.toNat / 256)

/-- The seven bytes of a request, the inverse of `Request.ofBytes`. -/
def Request.toBytes (r : Request) : List Byte :=
  [ BitVec.ofBool r.cReleaseDirection ++ BitVec.ofBool r.cEmergencyRelease ++ BitVec.ofBool r.cMoveToTarget ++
      BitVec.ofBool r.cParameterlessMode ++ BitVec.ofBool r.cEnable ++ r.op,
    lowPart r.position, highPart r.position, r.speed, r.force, lowPart r.word, highPart r.word ]

/-- The bytes of an instruction. -/
def encode (i : Instr) : List Byte :=
  (encodeRequest i).toBytes

end Sys2Proof
end

