-- ==== Sys2Proof/Config.lean ====
section
/-! DEFINITION. What is fixed for the machine: the numbers the document fixes (00_scope.md R6), and the parameters it leaves
open (R7), which are constants WITHOUT A BODY: nothing can evaluate them, so every statement holds for every value. -/

namespace Sys2Proof.Config

/-- `UNIT_ID_MAX`, the largest legal device address (00_scope.md R6). -/
def unitIdMax : Nat := 247

/-- `STATUS_READ_COUNT`, the words a status read asks for (00_scope.md R6, 20_memory.md R58). -/
def statusReadCount : Nat := 2

/-- `CONTROL_BASE` (00_scope.md R7): a u16 with `CONTROL_BASE + 2 <= 65535`, which is the type's bound. No value is
known (91_not_in_source.md N2). DEDUCED, safe: notes/assumptions/4. -/
opaque controlBase : Fin 65534

/-- `INPUT_BASE` (00_scope.md R7): a u16 with `INPUT_BASE + 4 <= 65535`, which is the type's bound. DEDUCED, safe:
notes/assumptions/4. -/
opaque inputBase : Fin 65532

/-- `UNIT_ID_INIT` (00_scope.md R7): the address, 0..247, a session starts with. notes/assumptions/5. -/
opaque unitIdInit : Fin 248

/-- `POLL_PERIOD` (00_scope.md R7), in the clock's milliseconds. The document's number, 100, is an unaudited literal
(70_reset_and_hazards.md R196) and is used nowhere. notes/assumptions/4, 11. -/
opaque pollPeriod : Nat

/-- `ACTIVATION_DEADLINE` (00_scope.md R7), in the clock's milliseconds. The document's number, 5 s, is an unaudited literal
(70_reset_and_hazards.md R196) and is used nowhere. notes/assumptions/4, 11. -/
opaque activationDeadline : Nat

/-- `LATE_SUCCESS_COUNTS` (00_scope.md R7, 93_implementation_defined.md U6): whether an ACTIVATED first seen by a read that
completes after the deadline ends the wait normally. -/
opaque lateSuccessCounts : Bool

/-- What the control register at an address of a device holds before anything is written to it: unspecified (10_state.md
R48, 93_implementation_defined.md U16), so a free value. notes/assumptions/6. -/
opaque deviceResetWord : BitVec 8 → Word → Word

end Sys2Proof.Config
end

