-- ==== Sys2Proof/Machine/State.lean ====
section
/-! DEFINITION. The state as plain data. The block has no state at all (10_state.md R20 to R23); State holds what surrounds
it: the inputs still to come, what has been returned to callers, the sessions with their addresses and positions, the one
transport call outstanding, the device's control registers, and the trace of calls (95_test_vectors.md section 3). -/

namespace Sys2Proof.Machine

open Sys2Proof

/-! ### Values the decoders deliver (10_state.md section 3) -/

/-- GripperActivationState's names (10_state.md R29). The normative content is the 2-bit number. -/
inductive ActivationState where
  | resetOrInspecting
  | activating
  | reserved
  | activated
  deriving DecidableEq, Repr

/-- GripperMotionState's names (10_state.md R30). The normative content is the 2-bit number. -/
inductive MotionState where
  | movingToPosition
  | innerSupportDetected
  | outerClipDetected
  | noObjectDetected
  deriving DecidableEq, Repr

/-- GripperStatus (10_state.md R31). The two state fields are the numbers (R29, R30; notes/assumptions/18). -/
structure GripperStatus where
  activated         : Bool
  dropDetected      : Bool
  parameterlessMode : Bool
  goingToTarget     : Bool
  activationState   : BitVec 2
  motionState       : BitVec 2
  deriving DecidableEq, Repr

/-- FaultFlags (10_state.md R32), in bit order. -/
structure FaultFlags where
  commandError       : Bool
  communicationFault : Bool
  overcurrent        : Bool
  voltageOutOfRange  : Bool
  enablingError      : Bool
  overtemperature    : Bool
  selfFault          : Bool
  deriving DecidableEq, Repr

/-- FaultPosition (10_state.md R33). -/
structure FaultPosition where
  fault    : FaultFlags
  position : Byte
  deriving DecidableEq, Repr

/-- SpeedForce (10_state.md R34). -/
structure SpeedForce where
  speed : Byte
  force : Byte
  deriving DecidableEq, Repr

/-- VoltageTemperature (10_state.md R35). -/
structure VoltageTemperature where
  voltage     : Byte
  temperature : Byte
  deriving DecidableEq, Repr

/-- A response: one value of the tagged type of 10_state.md R25. Outputs that do not belong to the operation have no
component (93_implementation_defined.md U1). -/
inductive Response where
  | encControl (ctlByte : Byte) (regWord : Word)
  | encPosition (regWord : Word)
  | encSpeedForce (regWord : Word)
  | decStatus (status : GripperStatus)
  | decFault (fault : FaultFlags)
  | decFaultPosition (value : FaultPosition)
  | decSpeedForce (value : SpeedForce)
  | decVoltageTemperature (value : VoltageTemperature)
  deriving DecidableEq, Repr

/-! ### The register map and the transport (20_memory.md) -/

/-- The three registers of the control space (20_memory.md R52). -/
inductive ControlRegister where
  | control
  | position
  | speedForce
  deriving DecidableEq, Repr

/-- The five registers of the status space (20_memory.md R52). -/
inductive StatusRegister where
  | status
  | faultPosition
  | speedForce
  | voltageTemperature
  | softwareInfo
  deriving DecidableEq, Repr

/-- One write a session makes: always one word to one control register (20_memory.md R57). -/
structure ControlWrite where
  register : ControlRegister
  word     : Word
  deriving DecidableEq, Repr

/-- A call of a transport primitive (20_memory.md R62). -/
inductive Call where
  /-- `readInputRegisters(unitId, startAddress, count)`, `ReadInput` in the rules -/
  | readInput (unit : Byte) (start : Word) (count : Nat)
  /-- `writeRegisters(unitId, startAddress, values)`, `WriteRegs` in the rules -/
  | writeRegs (unit : Byte) (start : Word) (values : List Word)
  deriving DecidableEq, Repr

/-- What made a transport call fail: "any failure from the underlying read/write primitive (link down, malformed response,
device NAK)" (60_exceptions.md R162). notes/assumptions/9. -/
inductive TransportFailure where
  | linkDown
  | malformedResponse
  | deviceNak
  /-- any other failure: the token stands for whatever the transport put in it -/
  | other (token : Nat)
  deriving DecidableEq, Repr

/-- What the transport answers to the call outstanding: an input, free (20_memory.md R67, 60_exceptions.md R162). -/
inductive Reply where
  /-- success, with the words a read yields (a write yields nothing, and they are not looked at) -/
  | ok (words : List Word)
  /-- failure; `landed` says whether the device took a write nevertheless, which no rule settles (notes/assumptions/8) -/
  | failed (failure : TransportFailure) (landed : Bool)
  deriving DecidableEq, Repr

/-! ### The session (42_host_sequences.md) -/

/-- The three errors of the host (60_exceptions.md R164): values handed to the caller of an operation, not traps. -/
inductive HostError where
  /-- "device address outside 0–247"; carries the rejected address (R161) -/
  | configurationError (address : Byte)
  /-- a transport call failed; carries what the transport put in it (R162) -/
  | transportError (failure : TransportFailure)
  /-- `waitForActivation`'s deadline (R163) -/
  | timeoutError
  deriving DecidableEq, Repr

/-- What an operation of a session hands to its caller. -/
inductive Result where
  /-- a write or a wait returned: no value (91_not_in_source.md N23) -/
  | done
  | status (value : GripperStatus)
  | faultPosition (value : FaultPosition)
  | speedForce (value : SpeedForce)
  | voltageTemperature (value : VoltageTemperature)
  /-- SOFTWARE_INFO, "returned raw/unparsed" (42_host_sequences.md R137) -/
  | softwareVersion (word : Word)
  | error (error : HostError)
  /-- a cancelled `waitForMove`: an outcome of the model's own naming (93_implementation_defined.md U19) -/
  | cancelled
  deriving DecidableEq, Repr

/-- The operations of a Device Session (42_host_sequences.md R131 to R148). -/
inductive SessionOp where
  | setDeviceAddress (address : Byte)
  | readStatus
  | readFaultPosition
  | readSpeedForce
  | readVoltageTemperature
  | readSoftwareVersion
  | writeControl (cmd : ControlCommand)
  | clearControl
  | activate
  | setTargetPosition (pos : Word)
  | setSpeedForce (speed force : Byte)
  | executeMove
  | stop
  | moveToPosition (pos : Word)
  | executeControlMovement (speed force : Byte) (position : Word)
  | waitForMove
  | waitForActivation
  deriving DecidableEq, Repr

/-- The two waits, the only control flow (42_host_sequences.md R146, R147). -/
inductive Wait where
  /-- `waitForMove`, with the signal its caller's wrapper sets to cancel it (R152) -/
  | move (cancelRequested : Bool)
  /-- `waitForActivation`, with its deadline on the clock -/
  | activation (deadline : Nat)
  deriving DecidableEq, Repr

/-- A session's program position (42_host_sequences.md R130): where the operation in progress is suspended. That is only while
it awaits the transport's answer or in the sleep of a wait (R150). The transport can have given the answer to a write before
the session goes on, and then the link is free meanwhile (R151, 70_reset_and_hazards.md R187). -/
inductive Activity where
  /-- no operation in progress -/
  | idle
  /-- awaiting the answer to the write `now`, with the writes of a composite still to come -/
  | writing (now : ControlWrite) (later : List ControlWrite)
  /-- suspended still at the answer to a write of a composite, which the transport has given: when the session goes on, the
  write `next` goes out, with the writes `later` still to come -/
  | answered (next : ControlWrite) (later : List ControlWrite)
  /-- awaiting the answer to the read of one status register -/
  | reading (register : StatusRegister)
  /-- awaiting the answer to the status read of a wait -/
  | polling (wait : Wait)
  /-- in the sleep of a wait, which ends when the clock shows `wakeTime` or later -/
  | sleeping (wait : Wait) (wakeTime : Nat)
  deriving DecidableEq, Repr

/-- A session: "one unit identifier, one program position, nothing else" (42_host_sequences.md R130). -/
structure Session where
  /-- DeviceAddress, 8 bits, of which 248..255 are never assigned (10_state.md R36) -/
  unitId   : Byte
  activity : Activity
  deriving DecidableEq, Repr

/-- The transport call outstanding, and the session (its place in `State.sessions`) that waits for it. -/
structure InFlight where
  session : Nat
  call    : Call
  deriving DecidableEq, Repr

/-- A control register of a device takes a new word without a write of the host: a side effect in the device of a call, which a
model "must not assume" away for reads, or a reaction of its firmware (20_memory.md R60, 93_implementation_defined.md U20).
The device is one of the legal ones and the register one of the named (R52, R61). notes/assumptions/21. -/
structure DeviceChange where
  unit     : Fin 248
  register : ControlRegister
  word     : Word
  deriving DecidableEq, Repr

/-- What the outside world does (INVENTORY.md, Host interface; notes/assumptions/1). -/
inductive Event where
  /-- a request is presented to the block (10_state.md R24) -/
  | request (r : Request)
  /-- one more session is made on the link (42_host_sequences.md R151) -/
  | openSession
  /-- the caller of session `k` starts an operation, which runs to its first suspension point -/
  | invoke (k : Nat) (op : SessionOp)
  /-- session `k` goes on from where it is suspended, to its next call: its sleep ends and it polls again (42_host_sequences.md
  R146, R147), or it takes the answer to a write and the next write goes out (R144, R145) -/
  | resume (k : Nat)
  /-- the transport answers the call outstanding; its session returns, falls asleep, or has a write still to send -/
  | reply (r : Reply)
  /-- the caller of session `k` asks for its `waitForMove` to end (42_host_sequences.md R152) -/
  | cancel (k : Nat)
  /-- time passes -/
  | elapse (duration : Nat)
  /-- a device changes one of its control registers, be it while a read of it is outstanding (20_memory.md R60) -/
  | deviceChange (change : DeviceChange)
  deriving DecidableEq, Repr

/-- A device's control registers: (key, word) pairs, keys strictly rising, an unlisted key not yet written. The unit is one
16-bit register (20_memory.md R51), so a cell is a word and not a byte. notes/assumptions/6. -/
abbrev Memory := List (Nat × Word)

/-- The machine around the block. -/
structure State where
  /-- inputs still to come, the next one first -/
  events    : List Event
  /-- the responses of the block, delivered to their callers, oldest first -/
  responses : List Response
  /-- the sessions on the link -/
  sessions  : List Session
  /-- the one transport call outstanding (20_memory.md R63) -/
  link      : Option InFlight
  /-- the transport calls issued, oldest first -/
  trace     : List Call
  /-- what the operations of sessions returned, oldest first, each with its session -/
  results   : List (Nat × Result)
  /-- the control registers of the devices (10_state.md R39 to R41) -/
  control   : Memory
  /-- time elapsed, in milliseconds -/
  clock     : Nat
  deriving DecidableEq, Repr

/-- Why the machine stops with a fault: nothing makes it. "A model of the block has no fault outcome" (60_exceptions.md
R160), and a host error is a `Result` handed to a caller (R166). So there is no constructor: nobody raises one.
notes/assumptions/17. -/
inductive Fault where
  deriving DecidableEq, Repr

/-- Why a step is refused. None of these is raised by an operation of the block (60_exceptions.md R160): all but the
first are inputs to which the spec gives no meaning, and stopping there is safe. -/
inductive Refusal where
  /-- raised by `exec` for an operation without a meaning yet; none is left. Safe. -/
  | notModelled (mnemonic : String)
  /-- raised by `invoke`: the address is to be changed while the session has an operation outstanding, "undefined
  behavior by contract" (42_host_sequences.md R132, 93_implementation_defined.md U3). Safe. notes/assumptions/14. -/
  | addressChangeInFlight
  /-- raised by `invoke`: an operation is started while another of the same session is in progress, against "Single logical
  thread of control" (42_host_sequences.md R130). Safe. notes/assumptions/15. -/
  | sessionBusy
  /-- raised by `invoke` and `resume`: a session would start an operation or go on while a call is outstanding on the link
  (42_host_sequences.md R151, 93_implementation_defined.md U2). Safe. notes/assumptions/13, 15. -/
  | linkBusy
  /-- raised by `resume`: the session is not asleep and has no answered write to go on from. Safe. notes/assumptions/15. -/
  | nothingToResume
  /-- raised by `complete`: the transport answers though no call is outstanding, which it cannot ("the transport offers
  only host-initiated reads and writes", 60_exceptions.md R165). Safe. notes/assumptions/15. -/
  | noCallOutstanding
  /-- raised by `invoke`, `resume`, `cancel` and `complete`: an input names a session that does not exist. Safe.
  notes/assumptions/15. -/
  | noSuchSession
  deriving DecidableEq, Repr

/-- A new session: the open parameter UNIT_ID_INIT as its address, and nothing else to initialise (70_reset_and_hazards.md
R182). -/
def Session.fresh : Session :=
  { unitId := BitVec.ofNat 8 Config.unitIdInit.val, activity := .idle }

/-- The machine at the start: the block has nothing to reset (70_reset_and_hazards.md R180); one new session (R182); no
call issued, nothing returned; device registers unspecified (R181), so nothing listed; the clock at its origin. No input
is present: a program is the list of inputs an outside hand puts into `events` (notes/assumptions/1, 5, 11). -/
def State.reset : State :=
  { events := [], responses := [], sessions := [Session.fresh], link := none, trace := [], results := [],
    control := [], clock := 0 }

end Sys2Proof.Machine
end

