-- ==== Sys2Proof/Machine/Operands.lean ====
section
/-! DEFINITION. Operand assembly and field extraction (30_encoding.md R81, R82): shifts by constants, OR, and AND with
constant masks, all unsigned (40_command_encoder.md R106). -/

namespace Sys2Proof.Machine

open Sys2Proof

/-- `zext_16` of a byte (00_scope.md R9). -/
def zext16 (b : Byte) : Word := b.setWidth 16

/-- `w & 0xFF`, bits 7:0 (00_scope.md R8, 20_memory.md R54). -/
def lowByte (w : Word) : Byte := (w &&& 0x00FF#16).setWidth 8

/-- `(w >> 8) & 0xFF`, bits 15:8 (00_scope.md R8, 20_memory.md R54). -/
def highByte (w : Word) : Byte := ((w >>> 8) &&& 0x00FF#16).setWidth 8

/-- `trunc_16(v << 8)`: the high 8 bits are lost, silently (40_command_encoder.md R106). -/
def shiftToHighByte (w : Word) : Word := w <<< 8

/-- `first | (second << 8)`: "low byte = first field, high byte = second field" (20_memory.md R54). -/
def packPair (first second : Byte) : Word := zext16 first ||| shiftToHighByte (zext16 second)

/-- `(w >> n) & 0b11`, a 2-bit enumerated field (30_encoding.md R82). -/
def twoBitField (w : Word) (n : Nat) : BitVec 2 := ((w >>> n) &&& 0b11#16).setWidth 2

/-- The name of an activation state's number, by listing order (10_state.md R29, 30_encoding.md R83). -/
def activationStateName (n : BitVec 2) : ActivationState :=
  match n.getLsbD 1, n.getLsbD 0 with
  | false, false => .resetOrInspecting
  | false, true  => .activating
  | true,  false => .reserved
  | true,  true  => .activated

/-- The name of a motion state's number, by listing order (10_state.md R30, 30_encoding.md R83). -/
def motionStateName (n : BitVec 2) : MotionState :=
  match n.getLsbD 1, n.getLsbD 0 with
  | false, false => .movingToPosition
  | false, true  => .innerSupportDetected
  | true,  false => .outerClipDetected
  | true,  true  => .noObjectDetected

end Sys2Proof.Machine
end

