-- ==== Sys2Proof/Machine/Flags.lean ====
section
/-! DEFINITION. The booleans of the codec. The block has no condition code (10_state.md R23): these are the flags it
consumes, put into the control value, and the flags it produces, each one bit of one input word. -/

namespace Sys2Proof.Machine

open Sys2Proof

/-- `b2n(f)` (00_scope.md R9), as a byte. -/
def b2n (f : Bool) : Byte := if f then 1 else 0

/-- `(word[i] = 1)` (00_scope.md R9). -/
def flagBit (w : Word) (i : Nat) : Bool := w.getLsbD i

/-- Format CTL8 (30_encoding.md R71): "OR together fixed bit positions"; bit 2 and bits 7:6 stay 0. -/
def controlByte (cmd : ControlCommand) : Byte :=
  b2n cmd.enable ||| (b2n cmd.parameterlessMode <<< 1) ||| (b2n cmd.moveToTarget <<< 3) |||
    (b2n cmd.emergencyRelease <<< 4) ||| (b2n cmd.releaseDirection <<< 5)

/-- Format FLT8 (30_encoding.md R76): "bits 0–6 map in order to the seven fault flags"; bits 15:7 are ignored. -/
def faultFlags (w : Word) : FaultFlags :=
  { commandError := flagBit w 0
    communicationFault := flagBit w 1
    overcurrent := flagBit w 2
    voltageOutOfRange := flagBit w 3
    enablingError := flagBit w 4
    overtemperature := flagBit w 5
    selfFault := flagBit w 6 }

end Sys2Proof.Machine
end

