-- ==== Sys2Proof/Machine/RegisterMap.lean ====
section
/-! DEFINITION. The register map (20_memory.md R52): offsets, addresses and word counts, "pure constants" over the two open
base addresses. -/

namespace Sys2Proof.Machine

open Sys2Proof

/-- Offset from CONTROL_BASE (20_memory.md R52). -/
def ControlRegister.offset : ControlRegister → Nat
  | .control    => 0
  | .position   => 1
  | .speedForce => 2

/-- Address in the control space (20_memory.md R52). -/
def ControlRegister.address (r : ControlRegister) : Word :=
  BitVec.ofNat 16 (Config.controlBase.val + r.offset)

/-- Offset from INPUT_BASE (20_memory.md R52). -/
def StatusRegister.offset : StatusRegister → Nat
  | .status             => 0
  | .faultPosition      => 1
  | .speedForce         => 2
  | .voltageTemperature => 3
  | .softwareInfo       => 4

/-- Address in the status space (20_memory.md R52). -/
def StatusRegister.address (r : StatusRegister) : Word :=
  BitVec.ofNat 16 (Config.inputBase.val + r.offset)

/-- How many words a read of the register asks for (20_memory.md R52, R57): two for STATUS, else one. -/
def StatusRegister.count : StatusRegister → Nat
  | .status             => Config.statusReadCount
  | .faultPosition      => 1
  | .speedForce         => 1
  | .voltageTemperature => 1
  | .softwareInfo       => 1

/-- The call that reads a status register of the device `unit`. -/
def readCall (unit : Byte) (r : StatusRegister) : Call :=
  .readInput unit r.address r.count

/-- The call that writes one control register of the device `unit`. -/
def writeCall (unit : Byte) (w : ControlWrite) : Call :=
  .writeRegs unit w.register.address [w.word]

end Sys2Proof.Machine
end

