-- ==== Sys2Proof/Machine/Ops.lean ====
section
/-! DEFINITION. The named operations over the state: delivering a response, the control registers of the devices, a
session's position, and ending an operation with a value or with an error. -/

namespace Sys2Proof.Machine

open Sys2Proof

/-! ### Responses of the block -/

/-- The response goes to the caller that presented the request (10_state.md R25). -/
def State.deliver (s : State) (r : Response) : State :=
  { s with responses := s.responses ++ [r] }

/-- An operation of the block: its response is delivered and nothing else happens (10_state.md R20, R23). -/
def answer (r : Response) (s : State) : Host.Outcome State Fault Refusal :=
  .next (s.deliver r)

/-! ### The control registers of the devices

A key is a device and an address in its control space: each device has its own spaces (20_memory.md R61). -/

/-- The key of an address in the control space of the device `unit`. -/
def controlKey (unit : Byte) (address : Word) : Nat :=
  unit.toNat * 65536 + address.toNat

/-- The word at a key, if it was written. -/
def Memory.read : Memory → Nat → Option Word
  | [], _ => none
  | (k, v) :: rest, key => if k = key then some v else Memory.read rest key

/-- Put a word at a key, keeping the keys strictly rising. -/
def Memory.write : Memory → Nat → Word → Memory
  | [], key, w => [(key, w)]
  | (k, v) :: rest, key, w =>
    if key < k then (key, w) :: (k, v) :: rest
    else if key = k then (k, w) :: rest
    else (k, v) :: Memory.write rest key w

/-- Put words at consecutive keys: consecutive registers have consecutive addresses (20_memory.md R51). -/
def Memory.writeRun : Memory → Nat → List Word → Memory
  | m, _, [] => m
  | m, key, w :: ws => Memory.writeRun (Memory.write m key w) (key + 1) ws

/-- The canonical form: keys strictly rising. -/
def Memory.wf : Memory → Bool
  | [] => true
  | [_] => true
  | (k, _) :: (l, v) :: rest => decide (k < l) && Memory.wf ((l, v) :: rest)

/-- What a control register of a device holds: the word last written, or the unspecified word it had from the start
(10_state.md R48). No operation of the host reads one (20_memory.md R53). -/
def State.controlWord (s : State) (unit : Byte) (address : Word) : Word :=
  (Memory.read s.control (controlKey unit address)).getD (Config.deviceResetWord unit address)

/-- A call reaches its device: a write is kept (20_memory.md R60). What else a call does in the device, a read included, comes as
`deviceChange` inputs, which are free (R60, 91_not_in_source.md N16; notes/assumptions/21). -/
def State.land (s : State) (c : Call) : State :=
  match c with
  | .readInput _ _ _ => s
  | .writeRegs unit start values =>
    { s with control := Memory.writeRun s.control (controlKey unit start) values }

/-- A device changes one of its control registers itself (20_memory.md R60; notes/assumptions/21). -/
def State.deviceChange (s : State) (c : DeviceChange) : State :=
  { s with control := Memory.write s.control (controlKey (BitVec.ofNat 8 c.unit.val) c.register.address) c.word }

/-! ### The position of a session -/

/-- Session `k` is now at `a`. -/
def State.setActivity (s : State) (k : Nat) (a : Activity) : State :=
  { s with sessions := s.sessions.modify k fun x => { x with activity := a } }

/-- The operation of session `k` ends and its caller receives `r`. -/
def State.finish (s : State) (k : Nat) (r : Result) : State :=
  { s.setActivity k .idle with results := s.results ++ [(k, r)] }

/-! ### Errors

60_exceptions.md R166: "There are no traps. An error … ends the session operation that met it and is delivered to that
operation's caller; no state is saved, no mode changes, no mask is set, no vector is consulted and control goes nowhere
but back to the caller." R167: "There is no return-from-trap operation and nothing to restore", so none stands here. -/

/-- `raise`: the operation of session `k` ends with the error `e` (00_scope.md R9, 60_exceptions.md R166). -/
def State.raise (s : State) (k : Nat) (e : HostError) : State :=
  s.finish k (.error e)

end Sys2Proof.Machine
end

