-- ==== Sys2Proof/Machine/CommandEncoder.lean ====
section
/-! DEFINITION. The command encoder: ENC_CONTROL, ENC_POSITION, ENC_SPEED_FORCE (40_command_encoder.md R100 to R102). -/

namespace Sys2Proof.Machine

open Sys2Proof

/-- The word written to CONTROL, format CTLW16: the control value zero-extended (30_encoding.md R72). -/
def controlWordOf (cmd : ControlCommand) : Word := zext16 (controlByte cmd)

/-- The word written to POSITION, format POS16 (30_encoding.md R73, R81). -/
def positionWordOf (position : Word) : Word := shiftToHighByte position

/-- The word written to SPEED_FORCE (control), format SF16 (30_encoding.md R74, R81). -/
def speedForceWordOf (speed force : Byte) : Word := packPair speed force

/-- ENC_CONTROL (R100). -/
def execEncControl (cmd : ControlCommand) (s : State) : Host.Outcome State Fault Refusal :=
  answer (.encControl (controlByte cmd) (controlWordOf cmd)) s

/-- ENC_POSITION (R101): any u16 operand is accepted. -/
def execEncPosition (position : Word) (s : State) : Host.Outcome State Fault Refusal :=
  answer (.encPosition (positionWordOf position)) s

/-- ENC_SPEED_FORCE (R102). -/
def execEncSpeedForce (speed force : Byte) (s : State) : Host.Outcome State Fault Refusal :=
  answer (.encSpeedForce (speedForceWordOf speed force)) s

end Sys2Proof.Machine
end

