-- ==== Sys2Proof/Machine/StatusDecoder.lean ====
section
/-! DEFINITION. The status decoder: DEC_STATUS, DEC_FAULT, DEC_FAULT_POSITION, DEC_SPEED_FORCE, DEC_VOLTAGE_TEMPERATURE
(41_status_decoder.md R110 to R115). -/

namespace Sys2Proof.Machine

open Sys2Proof

/-- `decodeStatus` (R110): bits 15:8 are ignored. -/
def decodeStatus (w : Word) : GripperStatus :=
  { activated := flagBit w 0
    dropDetected := flagBit w 1
    parameterlessMode := flagBit w 2
    goingToTarget := flagBit w 3
    activationState := twoBitField w 4
    motionState := twoBitField w 6 }

/-- `decodeFault` (R112). -/
def decodeFault (w : Word) : FaultFlags := faultFlags w

/-- `decodeFaultPosition` (R113): the fault part is `decodeFault(word & 0xFF)`. -/
def decodeFaultPosition (w : Word) : FaultPosition :=
  { fault := decodeFault (w &&& 0x00FF#16), position := highByte w }

/-- `decodeSpeedForce` (R114). -/
def decodeSpeedForce (w : Word) : SpeedForce :=
  { speed := lowByte w, force := highByte w }

/-- `decodeVoltageTemperature` (R115). -/
def decodeVoltageTemperature (w : Word) : VoltageTemperature :=
  { voltage := lowByte w, temperature := highByte w }

/-- DEC_STATUS (R110). -/
def execDecStatus (w : Word) (s : State) : Host.Outcome State Fault Refusal :=
  answer (.decStatus (decodeStatus w)) s

/-- DEC_FAULT (R112): a true flag is data, nothing is raised (60_exceptions.md R170). -/
def execDecFault (w : Word) (s : State) : Host.Outcome State Fault Refusal :=
  answer (.decFault (decodeFault w)) s

/-- DEC_FAULT_POSITION (R113). -/
def execDecFaultPosition (w : Word) (s : State) : Host.Outcome State Fault Refusal :=
  answer (.decFaultPosition (decodeFaultPosition w)) s

/-- DEC_SPEED_FORCE (R114). -/
def execDecSpeedForce (w : Word) (s : State) : Host.Outcome State Fault Refusal :=
  answer (.decSpeedForce (decodeSpeedForce w)) s

/-- DEC_VOLTAGE_TEMPERATURE (R115). -/
def execDecVoltageTemperature (w : Word) (s : State) : Host.Outcome State Fault Refusal :=
  answer (.decVoltageTemperature (decodeVoltageTemperature w)) s

end Sys2Proof.Machine
end

