-- ==== Sys2Proof/Machine/Transport.lean ====
section
/-! DEFINITION. Transport calls: issuing one, and what a session makes of the answer (20_memory.md R62, R63;
42_host_sequences.md R133 to R149). A session that goes on runs to its next suspension point in one step (R150). -/

namespace Sys2Proof.Machine

open Sys2Proof

/-- The transport call whose answer a session awaits, if it awaits one. -/
def Session.awaitedCall (x : Session) : Option Call :=
  match x.activity with
  | .idle => none
  | .writing now _ => some (writeCall x.unitId now)
  | .answered _ _ => none
  | .reading register => some (readCall x.unitId register)
  | .polling _ => some (readCall x.unitId .status)
  | .sleeping _ _ => none

/-- A call goes out: it is outstanding, and it is in the trace (20_memory.md R63). -/
def State.issue (s : State) (k : Nat) (c : Call) : State :=
  { s with link := some { session := k, call := c }, trace := s.trace ++ [c] }

/-- Session `k` issues the call `c` and awaits its answer at `a` (42_host_sequences.md R150). -/
def State.await (s : State) (k : Nat) (a : Activity) (c : Call) : State :=
  (s.setActivity k a).issue k c

/-- Session `k`, at the address `unit`, writes, with the writes `later` to follow. -/
def State.startWrite (s : State) (k : Nat) (unit : Byte) (now : ControlWrite) (later : List ControlWrite) : State :=
  s.await k (.writing now later) (writeCall unit now)

/-- Session `k`, at the address `unit`, reads one status register. -/
def State.startRead (s : State) (k : Nat) (unit : Byte) (register : StatusRegister) : State :=
  s.await k (.reading register) (readCall unit register)

/-- Session `k`, at the address `unit`, makes the status read of a wait. -/
def State.poll (s : State) (k : Nat) (unit : Byte) (wait : Wait) : State :=
  s.await k (.polling wait) (readCall unit .status)

/-- The first word of a read of `n` words. A successful read returns exactly `n` words; "any other response" is a
"malformed response", hence a failure (20_memory.md R62). -/
def Reply.firstWord (n : Nat) : Reply → Except TransportFailure Word
  | .ok [] => .error .malformedResponse
  | .ok (w :: ws) => if (w :: ws).length = n then .ok w else .error .malformedResponse
  | .failed f _ => .error f

/-- What a read of a status register hands to its caller: the word through the register's decoder, SOFTWARE_INFO raw
(42_host_sequences.md R133 to R137, 30_encoding.md R84). -/
def StatusRegister.decodeResult (r : StatusRegister) (w : Word) : Result :=
  match r with
  | .status             => .status (decodeStatus w)
  | .faultPosition      => .faultPosition (decodeFaultPosition w)
  | .speedForce         => .speedForce (decodeSpeedForce w)
  | .voltageTemperature => .voltageTemperature (decodeVoltageTemperature w)
  | .softwareInfo       => .softwareVersion w

/-- The answer to a write: on success the word is in the device, and the operation returns or has a write still to send, which
goes out when the session goes on; until then other sessions can read the device (70_reset_and_hazards.md R187). On failure
the operation ends at once, later writes are not issued, earlier ones are not undone (42_host_sequences.md R149). Whether a
failed write reached the device is the input's to say (notes/assumptions/8). -/
def State.afterWrite (s : State) (k : Nat) (c : Call) (later : List ControlWrite) (r : Reply) : State :=
  match r with
  | .ok _ =>
    match later with
    | [] => (s.land c).finish k .done
    | next :: rest => (s.land c).setActivity k (.answered next rest)
  | .failed f landed => State.raise (if landed then s.land c else s) k (.transportError f)

/-- The answer to a read: the decoded value, or the error (42_host_sequences.md section 2). Side effects of the read in the device
come as `deviceChange` inputs while it is outstanding (20_memory.md R60; notes/assumptions/21). -/
def State.afterRead (s : State) (k : Nat) (register : StatusRegister) (r : Reply) : State :=
  match r.firstWord register.count with
  | .ok w => s.finish k (register.decodeResult w)
  | .error f => s.raise k (.transportError f)

/-- `sleep(POLL_PERIOD)` (42_host_sequences.md R146, R147). -/
def State.sleep (s : State) (k : Nat) (wait : Wait) : State :=
  s.setActivity k (.sleeping wait (s.clock + Config.pollPeriod))

/-- `waitForMove` after a poll (42_host_sequences.md R146): the exit test, then cancellation, then the sleep. The test is
on the 2-bit field alone. -/
def State.moveTest (s : State) (k : Nat) (cancelRequested : Bool) (st : GripperStatus) : State :=
  if st.motionState ≠ 0#2 then s.finish k .done
  else if cancelRequested then s.finish k .cancelled
  else s.sleep k (.move cancelRequested)

/-- `waitForActivation` after a poll (42_host_sequences.md R147): the exit test and the deadline test, in the order that
LATE_SUCCESS_COUNTS gives them, then the sleep. -/
def State.activationTest (s : State) (k : Nat) (deadline : Nat) (st : GripperStatus) : State :=
  if Config.lateSuccessCounts then
    if st.activationState = 3#2 then s.finish k .done
    else if deadline ≤ s.clock then s.raise k .timeoutError
    else s.sleep k (.activation deadline)
  else
    if deadline ≤ s.clock then s.raise k .timeoutError
    else if st.activationState = 3#2 then s.finish k .done
    else s.sleep k (.activation deadline)

/-- The answer to the status read of a wait. A failing read ends the wait before any test (60_exceptions.md R168). Side
effects of the read in the device come as `deviceChange` inputs (20_memory.md R60; notes/assumptions/21). -/
def State.afterPoll (s : State) (k : Nat) (wait : Wait) (r : Reply) : State :=
  match r.firstWord StatusRegister.status.count with
  | .error f => s.raise k (.transportError f)
  | .ok w =>
    match wait with
    | .move cancelRequested => s.moveTest k cancelRequested (decodeStatus w)
    | .activation deadline => s.activationTest k deadline (decodeStatus w)

/-- No call is outstanding any more. -/
def State.freeLink (s : State) : State :=
  { s with link := none }

/-- The transport answers the call outstanding: the link is free again and the waiting session goes on. -/
def complete (r : Reply) (s : State) : Host.Outcome State Fault Refusal :=
  match s.link with
  | none => .refused .noCallOutstanding
  | some f =>
    match s.sessions[f.session]? with
    | none => .refused .noSuchSession
    | some x =>
      match x.activity with
      | .idle => .refused .noCallOutstanding
      | .writing _ later => .next (s.freeLink.afterWrite f.session f.call later r)
      | .answered _ _ => .refused .noCallOutstanding
      | .reading register => .next (s.freeLink.afterRead f.session register r)
      | .polling wait => .next (s.freeLink.afterPoll f.session wait r)
      | .sleeping _ _ => .refused .noCallOutstanding

end Sys2Proof.Machine
end

