-- ==== Sys2Proof/Machine/DeviceSession.lean ====
section
/-! DEFINITION. The Device Session's operations (42_host_sequences.md R131 to R148): starting one, going on with one,
cancelling a wait, and the passing of time. -/

namespace Sys2Proof.Machine

open Sys2Proof

/-! ### The writes of each operation, in order -/

/-- One or more writes, in order. -/
abbrev WriteSequence := ControlWrite × List ControlWrite

/-- First all of `a`, then all of `b` (42_host_sequences.md R144, R145): never coalesced (70_reset_and_hazards.md R186). -/
def WriteSequence.andThen (a b : WriteSequence) : WriteSequence :=
  (a.1, a.2 ++ b.1 :: b.2)

/-- `writeControl(cmd)` (42_host_sequences.md R138). -/
def writeControl (cmd : ControlCommand) : WriteSequence :=
  ({ register := .control, word := controlWordOf cmd }, [])

/-- `clearControl()` (R139): all five flags false. -/
def clearControl : WriteSequence :=
  writeControl ControlCommand.allFalse

/-- `activate()` (R140): only `enable`. -/
def activate : WriteSequence :=
  writeControl { ControlCommand.allFalse with enable := true }

/-- `setTargetPosition(pos)` (R141). -/
def setTargetPosition (pos : Word) : WriteSequence :=
  ({ register := .position, word := positionWordOf pos }, [])

/-- `setSpeedForce(speed, force)` (R142). -/
def setSpeedForce (speed force : Byte) : WriteSequence :=
  ({ register := .speedForce, word := speedForceWordOf speed force }, [])

/-- `executeMove()` (R143): `enable` and `moveToTarget`. -/
def executeMove : WriteSequence :=
  writeControl { ControlCommand.allFalse with enable := true, moveToTarget := true }

/-- `stop()` (R148): `enable` only, the same command as `activate()` (90_conflicts.md C7). -/
def stop : WriteSequence :=
  writeControl { ControlCommand.allFalse with enable := true }

/-- `moveToPosition(pos)` (R144): setTargetPosition, then executeMove. -/
def moveToPosition (pos : Word) : WriteSequence :=
  (setTargetPosition pos).andThen executeMove

/-- `executeControlMovement(speed, force, position)` (R145): setSpeedForce, moveToPosition, executeMove, taken literally:
four writes. -/
def executeControlMovement (speed force : Byte) (position : Word) : WriteSequence :=
  ((setSpeedForce speed force).andThen (moveToPosition position)).andThen executeMove

/-! ### Starting an operation -/

/-- `setDeviceAddress(a)` (42_host_sequences.md R131): above 247 it raises, and the address stays as it was; else it is
assigned. No transport call. -/
def State.setDeviceAddress (s : State) (k : Nat) (a : Byte) : State :=
  if Config.unitIdMax < a.toNat then s.raise k (.configurationError a)
  else State.finish { s with sessions := s.sessions.modify k fun x => { x with unitId := a } } k .done

/-- The first of the writes goes out. -/
def State.startWrites (s : State) (k : Nat) (unit : Byte) (w : WriteSequence) : State :=
  s.startWrite k unit w.1 w.2

/-- Session `k`, idle at the address `unit`, starts an operation, which runs to its first suspension point: its first transport
call goes out (42_host_sequences.md R150). The deadline of `waitForActivation` runs from here (R147). -/
def State.begin (s : State) (k : Nat) (unit : Byte) (op : SessionOp) : State :=
  match op with
  | .setDeviceAddress a => s.setDeviceAddress k a
  | .readStatus => s.startRead k unit .status
  | .readFaultPosition => s.startRead k unit .faultPosition
  | .readSpeedForce => s.startRead k unit .speedForce
  | .readVoltageTemperature => s.startRead k unit .voltageTemperature
  | .readSoftwareVersion => s.startRead k unit .softwareInfo
  | .writeControl cmd => s.startWrites k unit (writeControl cmd)
  | .clearControl => s.startWrites k unit clearControl
  | .activate => s.startWrites k unit activate
  | .setTargetPosition pos => s.startWrites k unit (setTargetPosition pos)
  | .setSpeedForce speed force => s.startWrites k unit (setSpeedForce speed force)
  | .executeMove => s.startWrites k unit executeMove
  | .stop => s.startWrites k unit stop
  | .moveToPosition pos => s.startWrites k unit (moveToPosition pos)
  | .executeControlMovement speed force position => s.startWrites k unit (executeControlMovement speed force position)
  | .waitForMove => s.poll k unit (.move false)
  | .waitForActivation => s.poll k unit (.activation (s.clock + Config.activationDeadline))

/-- The refusal of an operation started while another of the session is in progress. -/
def SessionOp.busyRefusal : SessionOp → Refusal
  | .setDeviceAddress _ => .addressChangeInFlight
  | .readStatus => .sessionBusy
  | .readFaultPosition => .sessionBusy
  | .readSpeedForce => .sessionBusy
  | .readVoltageTemperature => .sessionBusy
  | .readSoftwareVersion => .sessionBusy
  | .writeControl _ => .sessionBusy
  | .clearControl => .sessionBusy
  | .activate => .sessionBusy
  | .setTargetPosition _ => .sessionBusy
  | .setSpeedForce _ _ => .sessionBusy
  | .executeMove => .sessionBusy
  | .stop => .sessionBusy
  | .moveToPosition _ => .sessionBusy
  | .executeControlMovement _ _ _ => .sessionBusy
  | .waitForMove => .sessionBusy
  | .waitForActivation => .sessionBusy

/-- The caller of session `k` starts `op`. A session has a single thread of control (42_host_sequences.md R130), its address
is not to be changed while an operation of it is outstanding (R132), and it has a step only when no call is outstanding on
the link (R151; notes/assumptions/13). -/
def invoke (k : Nat) (op : SessionOp) (s : State) : Host.Outcome State Fault Refusal :=
  match s.sessions[k]? with
  | none => .refused .noSuchSession
  | some x =>
    if x.activity ≠ .idle then .refused op.busyRefusal
    else if s.link.isSome then .refused .linkBusy
    else .next (s.begin k x.unitId op)

/-! ### Going on -/

/-- A sleep is over at `wakeTime` or later, not before, so that POLL_PERIOD is a lower bound on the pause
(70_reset_and_hazards.md R196). -/
def State.wake (s : State) (wakeTime : Nat) : State :=
  { s with clock := max s.clock wakeTime }

/-- Session `k` goes on to its next call: a sleep ends in the next poll (42_host_sequences.md R146, R147), an answered write
is followed by the next (R144, R145). It has a step only when no call is outstanding on the link (R151). -/
def resume (k : Nat) (s : State) : Host.Outcome State Fault Refusal :=
  match s.link with
  | some _ => .refused .linkBusy
  | none =>
    match s.sessions[k]? with
    | none => .refused .noSuchSession
    | some x =>
      match x.activity with
      | .idle => .refused .nothingToResume
      | .writing _ _ => .refused .nothingToResume
      | .answered next later => .next (s.startWrite k x.unitId next later)
      | .reading _ => .refused .nothingToResume
      | .polling _ => .refused .nothingToResume
      | .sleeping wait wakeTime => .next ((s.wake wakeTime).poll k x.unitId wait)

/-! ### Cancellation, new sessions, time -/

/-- The caller's cancellation signal reaches a `waitForMove`; nothing else has a place for it (42_host_sequences.md R146,
R152). -/
def Activity.withCancel : Activity → Activity
  | .polling (.move _) => .polling (.move true)
  | .sleeping (.move _) wakeTime => .sleeping (.move true) wakeTime
  | .idle => .idle
  | .writing now later => .writing now later
  | .answered next later => .answered next later
  | .reading register => .reading register
  | .polling (.activation deadline) => .polling (.activation deadline)
  | .sleeping (.activation deadline) wakeTime => .sleeping (.activation deadline) wakeTime

/-- The caller of session `k` asks for cancellation; the poll loop sees it between reads (42_host_sequences.md R152). -/
def cancel (k : Nat) (s : State) : Host.Outcome State Fault Refusal :=
  match s.sessions[k]? with
  | none => .refused .noSuchSession
  | some x => .next (s.setActivity k x.activity.withCancel)

/-- One more session on the link (42_host_sequences.md R151, 70_reset_and_hazards.md R182). -/
def State.openSession (s : State) : State :=
  { s with sessions := s.sessions ++ [Session.fresh] }

/-- Time passes (70_reset_and_hazards.md R196). -/
def State.elapse (s : State) (duration : Nat) : State :=
  { s with clock := s.clock + duration }

end Sys2Proof.Machine
end

