-- ==== Sys2Proof/Machine/Dispatch.lean ====
section
/-! DEFINITION. The meaning of each operation of the block, one arm per row of spec/opcode_table.json. -/

namespace Sys2Proof.Machine

open Sys2Proof

-- The block's step: a total function (60_exceptions.md R160), so no arm is refused.
def exec (i : Instr) (s : State) : Host.Outcome State Fault Refusal :=
  match i with
  | .encControl cmd => Sys2Proof.Machine.execEncControl cmd s
  | .encPosition position => Sys2Proof.Machine.execEncPosition position s
  | .encSpeedForce speed force => Sys2Proof.Machine.execEncSpeedForce speed force s
  | .decStatus word => Sys2Proof.Machine.execDecStatus word s
  | .decFault word => Sys2Proof.Machine.execDecFault word s
  | .decFaultPosition word => Sys2Proof.Machine.execDecFaultPosition word s
  | .decSpeedForce word => Sys2Proof.Machine.execDecSpeedForce word s
  | .decVoltageTemperature word => Sys2Proof.Machine.execDecVoltageTemperature word s

end Sys2Proof.Machine
end

