-- ==== Sys2Proof/Machine/Step.lean ====
section
/-! DEFINITION. One step: the next input is taken and acted on. A request goes to the block; the rest are the host's, the
transport's and the devices'. Between inputs nothing moves (00_scope.md R11: the codec "has no step of its own between requests"). -/

namespace Sys2Proof.Machine

open Sys2Proof

/-- One step. With no input there is nothing to do and the state stands (notes/assumptions/1). -/
def step (s : State) : Host.Outcome State Fault Refusal :=
  match s.events with
  | [] => .next s
  | .request r :: rest => exec (decodeRequest r) { s with events := rest }
  | .openSession :: rest => .next (State.openSession { s with events := rest })
  | .invoke k op :: rest => invoke k op { s with events := rest }
  | .resume k :: rest => resume k { s with events := rest }
  | .reply r :: rest => complete r { s with events := rest }
  | .cancel k :: rest => cancel k { s with events := rest }
  | .elapse duration :: rest => .next (State.elapse { s with events := rest } duration)
  | .deviceChange change :: rest => .next (State.deviceChange { s with events := rest } change)

/-- `s` with the request those bits stand for as the very next input. Bits that are no request (more than 56 of them)
change nothing. -/
def State.withFetchWord (s : State) (nbits w : Nat) : State :=
  match Request.ofBytes (tableWordBytes nbits w) with
  | .ok r => { s with events := .request r :: s.events }
  | .error _ => s

end Sys2Proof.Machine
end

