-- ==== Sys2Proof/Safety.lean ====
section
/-! DEFINITION. The terms in which the claims speak of states and runs: where a session stands, which calls the register map
admits, the invariant every step keeps, and which inputs leave a wait waiting. -/

namespace Sys2Proof.Machine

open Sys2Proof

/-- `s` with the inputs `es` ahead of those it has. -/
def State.feed (s : State) (es : List Event) : State :=
  { s with events := es ++ s.events }

/-- `n` steps, stopping at the first that does not answer a next state. -/
def run : Nat → State → Host.Outcome State Fault Refusal
  | 0, s => .next s
  | n + 1, s =>
    match step s with
    | .next t => run n t
    | .fault f => .fault f
    | .refused r => .refused r

/-- `s` after the devices' changes `cs`, in order. -/
def State.deviceChanges (s : State) : List DeviceChange → State
  | [] => s
  | c :: cs => (s.deviceChange c).deviceChanges cs

/-- Session `k` has the address `u` and stands at `a`. -/
def State.At (s : State) (k : Nat) (u : Byte) (a : Activity) : Prop :=
  s.sessions[k]? = some { unitId := u, activity := a }

/-- A call the host of the spec makes: to a legal device, either one word to one of the three control registers or the read
of one of the five status registers with its own word count (20_memory.md R52, R57, R61). Any other address, a read of the
control space and a write to the status space are no calls of the host (93_implementation_defined.md U4, U5). -/
def Call.Mapped (c : Call) : Prop :=
  ∃ u : Byte, u.toNat ≤ Config.unitIdMax ∧
    ((∃ w : ControlWrite, c = writeCall u w) ∨ (∃ r : StatusRegister, c = readCall u r))

/-- A key of a control register of a legal device. -/
def MappedKey (key : Nat) : Prop :=
  ∃ u : Byte, u.toNat ≤ Config.unitIdMax ∧ ∃ r : ControlRegister, key = controlKey u r.address

/-- Every session is idle, asleep in a wait, or at an awaited answer: its own call is the one outstanding, or the answer to a
write of it is there and it has not yet gone on. These are the only points at which an operation is suspended
(42_host_sequences.md R150). -/
def State.Suspended (s : State) : Prop :=
  ∀ (k : Nat) (x : Session), s.sessions[k]? = some x →
    x.activity = .idle ∨ (∃ wait wakeTime, x.activity = .sleeping wait wakeTime) ∨
    (∃ c, x.awaitedCall = some c ∧ s.link = some { session := k, call := c }) ∨
    ∃ next later, x.activity = .answered next later

/-- The invariant: every session holds a legal address (10_state.md R36); the call outstanding is the one its session awaits;
every operation is suspended at one of its points (42_host_sequences.md R150); every call ever issued is in the register map;
the control registers are in canonical form, and only named registers of legal devices are listed. -/
structure State.Inv (s : State) : Prop where
  legalAddresses : ∀ x ∈ s.sessions, x.unitId.toNat ≤ Config.unitIdMax
  linkMatches    : ∀ f, s.link = some f → ∃ x, s.sessions[f.session]? = some x ∧ x.awaitedCall = some f.call
  suspended      : s.Suspended
  traceMapped    : ∀ c ∈ s.trace, c.Mapped
  controlWf      : Memory.wf s.control = true
  controlMapped  : ∀ cell ∈ s.control, MappedKey cell.1

/-- A status reply of a device that says it is still moving: two words, MOVING_TO_POSITION in the first. -/
def Reply.StillMoving (r : Reply) : Prop :=
  ∃ w0 w1 : Word, r = .ok [w0, w1] ∧ motionStateName (decodeStatus w0).motionState = .movingToPosition

/-- An input that gives `waitForMove` of session `k` no reason to end: no cancellation of it, and no reply but that of a
device still moving (95_test_vectors.md S8). -/
def Event.KeepsMoving (k : Nat) : Event → Prop
  | .cancel j => j ≠ k
  | .reply r  => r.StillMoving
  | _         => True

/-- Session `k` is in an uncancelled `waitForMove`. -/
def State.WaitsForMove (s : State) (k : Nat) : Prop :=
  ∃ u, s.At k u (.polling (.move false)) ∨ ∃ t, s.At k u (.sleeping (.move false) t)

end Sys2Proof.Machine
end

