-- ==== Sys2Proof/Certificates/Slice0/Obligations.lean ====
section
/-! DEFINITION. The statements for the provers, in the order of OBLIGATIONS.json. -/

open Sys2Proof Sys2Proof.Machine

/-! ### The command encoder -/

/-- 40_command_encoder.md R100, 30_encoding.md R72: for every command and state ENC_CONTROL runs; its control value is the
sum of the five weighted flags, bits 2, 6, 7 are 0, the word is its zero extension, and no two commands share a value.
Nothing else changes. The zero extension is a choice, 92_eei_decisions.md D5 (notes/assumptions/20). -/
def Obligations.EncControlBuildsControlValue : Prop :=
  ∀ cmd : ControlCommand, ∃ (b : Byte) (w : Word),
    (∀ s : State, exec (.encControl cmd) s = .next { s with responses := s.responses ++ [.encControl b w] }) ∧
    opcode (.encControl cmd) = 0#3 ∧
    b.toNat = cmd.enable.toNat + 2 * cmd.parameterlessMode.toNat + 8 * cmd.moveToTarget.toNat +
      16 * cmd.emergencyRelease.toNat + 32 * cmd.releaseDirection.toNat ∧
    b.getLsbD 2 = false ∧ b.getLsbD 6 = false ∧ b.getLsbD 7 = false ∧
    w.toNat = b.toNat ∧ (∀ i, 8 ≤ i → w.getLsbD i = false) ∧
    (∀ (cmd' : ControlCommand) (w' : Word) (s : State),
      exec (.encControl cmd') s = .next { s with responses := s.responses ++ [.encControl b w'] } → cmd' = cmd)

/-- 40_command_encoder.md R103: the inverse bit-test on the control value gives back the five flags. -/
def Obligations.ControlValueInverseBitTest : Prop :=
  ∀ cmd : ControlCommand, ∃ (b : Byte) (w : Word),
    (∀ s : State, exec (.encControl cmd) s = .next { s with responses := s.responses ++ [.encControl b w] }) ∧
    b.getLsbD 0 = cmd.enable ∧ b.getLsbD 1 = cmd.parameterlessMode ∧ b.getLsbD 3 = cmd.moveToTarget ∧
    b.getLsbD 4 = cmd.emergencyRelease ∧ b.getLsbD 5 = cmd.releaseDirection

/-- 40_command_encoder.md R101, 30_encoding.md R73: for every u16 operand ENC_POSITION runs; the word is the operand's low
byte over a zero byte, so it depends on nothing else of the operand. Nothing else changes. -/
def Obligations.EncPositionShiftsIntoHighByte : Prop :=
  ∀ p : Word, ∃ w : Word,
    (∀ s : State, exec (.encPosition p) s = .next { s with responses := s.responses ++ [.encPosition w] }) ∧
    opcode (.encPosition p) = 1#3 ∧
    w.toNat = (p.toNat * 2 ^ 8) % 2 ^ 16 ∧ w = p.extractLsb' 0 8 ++ 0x00#8 ∧
    (∀ (p' : Word) (s : State), p'.toNat % 256 = p.toNat % 256 →
      exec (.encPosition p') s = exec (.encPosition p) s)

/-- 40_command_encoder.md R104: shifting the position word back gives the operand when it is in 0..255 and the operand
modulo 256 always; the low byte is 0 always. -/
def Obligations.PositionWordLaw : Prop :=
  ∀ p : Word, ∃ w : Word,
    (∀ s : State, exec (.encPosition p) s = .next { s with responses := s.responses ++ [.encPosition w] }) ∧
    (p.toNat ≤ 255 → w >>> 8 = p) ∧ (w >>> 8).toNat = p.toNat % 256 ∧ w &&& 0x00FF#16 = 0

/-- 40_command_encoder.md R102, 30_encoding.md R74: for all operands ENC_SPEED_FORCE runs; the word is force over speed.
Nothing else changes. -/
def Obligations.EncSpeedForcePacksBothBytes : Prop :=
  ∀ speed force : Byte, ∃ w : Word,
    (∀ s : State, exec (.encSpeedForce speed force) s =
      .next { s with responses := s.responses ++ [.encSpeedForce w] }) ∧
    opcode (.encSpeedForce speed force) = 2#3 ∧
    w = force ++ speed ∧ w.toNat = speed.toNat + 256 * force.toNat

/-- 40_command_encoder.md R105: DEC_SPEED_FORCE undoes ENC_SPEED_FORCE, and the other way round. -/
def Obligations.SpeedForceRoundTrip : Prop :=
  (∀ (speed force : Byte) (w : Word) (s t : State),
    exec (.encSpeedForce speed force) s = .next { s with responses := s.responses ++ [.encSpeedForce w] } →
    exec (.decSpeedForce w) t =
      .next { t with responses := t.responses ++ [.decSpeedForce { speed := speed, force := force }] }) ∧
  (∀ (w : Word) (v : SpeedForce) (s t : State),
    exec (.decSpeedForce w) s = .next { s with responses := s.responses ++ [.decSpeedForce v] } →
    exec (.encSpeedForce v.speed v.force) t = .next { t with responses := t.responses ++ [.encSpeedForce w] })

/-! ### The status decoder -/

/-- 41_status_decoder.md R110: for every word DEC_STATUS runs; the four flags are bits 0 to 3, the two fields bits 5:4 and
7:6; bits 15:8 are ignored, and the low byte can be rebuilt from the result. Nothing else changes. -/
def Obligations.DecStatusReadsItsBits : Prop :=
  ∀ w : Word, ∃ st : GripperStatus,
    (∀ s : State, exec (.decStatus w) s = .next { s with responses := s.responses ++ [.decStatus st] }) ∧
    opcode (.decStatus w) = 3#3 ∧
    st.activated = w.getLsbD 0 ∧ st.dropDetected = w.getLsbD 1 ∧ st.parameterlessMode = w.getLsbD 2 ∧
    st.goingToTarget = w.getLsbD 3 ∧
    st.activationState = w.extractLsb' 4 2 ∧ st.motionState = w.extractLsb' 6 2 ∧
    w.toNat % 256 = st.activated.toNat + 2 * st.dropDetected.toNat + 4 * st.parameterlessMode.toNat +
      8 * st.goingToTarget.toNat + 16 * st.activationState.toNat + 64 * st.motionState.toNat ∧
    (∀ s : State, exec (.decStatus (w &&& 0x00FF#16)) s = exec (.decStatus w) s)

/-- 41_status_decoder.md R111: the two state fields are the numbers `(word >> 4) & 0b11` and `(word >> 6) & 0b11`, for every
word, and no word fails. The last clauses say it through the names, the n-th name for n; the numbering of the names is a
choice, 92_eei_decisions.md D6 (notes/assumptions/18). -/
def Obligations.EnumFieldsAreMaskedShifts : Prop :=
  ∀ w : Word, ∃ st : GripperStatus,
    (∀ s : State, exec (.decStatus w) s = .next { s with responses := s.responses ++ [.decStatus st] }) ∧
    st.activationState.toNat = (w.toNat >>> 4) &&& 0b11 ∧ st.motionState.toNat = (w.toNat >>> 6) &&& 0b11 ∧
    [ActivationState.resetOrInspecting, .activating, .reserved, .activated][(w.toNat >>> 4) &&& 0b11]? =
      some (activationStateName st.activationState) ∧
    [MotionState.movingToPosition, .innerSupportDetected, .outerClipDetected, .noObjectDetected][
      (w.toNat >>> 6) &&& 0b11]? = some (motionStateName st.motionState)

/-- 41_status_decoder.md R112: for every word DEC_FAULT runs; the seven flags are bits 0 to 6 in order; bits 15:7 are
ignored. Nothing else changes. That bits 15:8 are ignored is a choice, 92_eei_decisions.md D11 (notes/assumptions/20). -/
def Obligations.DecFaultReadsSevenFlags : Prop :=
  ∀ w : Word, ∃ f : FaultFlags,
    (∀ s : State, exec (.decFault w) s = .next { s with responses := s.responses ++ [.decFault f] }) ∧
    opcode (.decFault w) = 4#3 ∧
    f.commandError = w.getLsbD 0 ∧ f.communicationFault = w.getLsbD 1 ∧ f.overcurrent = w.getLsbD 2 ∧
    f.voltageOutOfRange = w.getLsbD 3 ∧ f.enablingError = w.getLsbD 4 ∧ f.overtemperature = w.getLsbD 5 ∧
    f.selfFault = w.getLsbD 6 ∧
    w.toNat % 128 = f.commandError.toNat + 2 * f.communicationFault.toNat + 4 * f.overcurrent.toNat +
      8 * f.voltageOutOfRange.toNat + 16 * f.enablingError.toNat + 32 * f.overtemperature.toNat +
      64 * f.selfFault.toNat ∧
    (∀ (w' : Word) (s : State), w'.toNat % 128 = w.toNat % 128 → exec (.decFault w') s = exec (.decFault w) s)

/-- 41_status_decoder.md R113: for every word DEC_FAULT_POSITION runs; its fault part is DEC_FAULT of the low byte, its
position the high byte; bit 7 is ignored. Nothing else changes. -/
def Obligations.DecFaultPositionSplitsWord : Prop :=
  ∀ w : Word, ∃ v : FaultPosition,
    (∀ s : State, exec (.decFaultPosition w) s =
      .next { s with responses := s.responses ++ [.decFaultPosition v] }) ∧
    opcode (.decFaultPosition w) = 5#3 ∧
    (∀ s : State, exec (.decFault (w &&& 0x00FF#16)) s =
      .next { s with responses := s.responses ++ [.decFault v.fault] }) ∧
    v.position.toNat = w.toNat / 256 ∧
    v.fault.commandError = w.getLsbD 0 ∧ v.fault.communicationFault = w.getLsbD 1 ∧
    v.fault.overcurrent = w.getLsbD 2 ∧ v.fault.voltageOutOfRange = w.getLsbD 3 ∧
    v.fault.enablingError = w.getLsbD 4 ∧ v.fault.overtemperature = w.getLsbD 5 ∧ v.fault.selfFault = w.getLsbD 6 ∧
    (∀ s : State, exec (.decFaultPosition (w &&& 0xFF7F#16)) s = exec (.decFaultPosition w) s)

/-- 41_status_decoder.md R114: for every word DEC_SPEED_FORCE runs; speed is the low byte, force the high byte, and every
pair of bytes comes from exactly one word. Nothing else changes. -/
def Obligations.DecSpeedForceSplitsWord : Prop :=
  (∀ w : Word, ∃ v : SpeedForce,
    (∀ s : State, exec (.decSpeedForce w) s = .next { s with responses := s.responses ++ [.decSpeedForce v] }) ∧
    opcode (.decSpeedForce w) = 6#3 ∧
    v.speed.toNat = w.toNat % 256 ∧ v.force.toNat = w.toNat / 256) ∧
  (∀ v : SpeedForce, ∃! w : Word, ∀ s : State,
    exec (.decSpeedForce w) s = .next { s with responses := s.responses ++ [.decSpeedForce v] })

/-- 41_status_decoder.md R115: for every word DEC_VOLTAGE_TEMPERATURE runs; voltage is the low byte, temperature the high
byte, and every pair of bytes comes from exactly one word. Nothing else changes. -/
def Obligations.DecVoltageTemperatureSplitsWord : Prop :=
  (∀ w : Word, ∃ v : VoltageTemperature,
    (∀ s : State, exec (.decVoltageTemperature w) s =
      .next { s with responses := s.responses ++ [.decVoltageTemperature v] }) ∧
    opcode (.decVoltageTemperature w) = 7#3 ∧
    v.voltage.toNat = w.toNat % 256 ∧ v.temperature.toNat = w.toNat / 256) ∧
  (∀ v : VoltageTemperature, ∃! w : Word, ∀ s : State,
    exec (.decVoltageTemperature w) s = .next { s with responses := s.responses ++ [.decVoltageTemperature v] })

/-- 41_status_decoder.md R116: which bits each decoder ignores, and that the two pair decoders ignore none. That DEC_FAULT
ignores bits 15:8 is a choice, 92_eei_decisions.md D11 (notes/assumptions/20). -/
def Obligations.DecodersIgnoreNamedBits : Prop :=
  ∀ (w : Word) (s : State),
    exec (.decStatus w) s = exec (.decStatus (w &&& 0x00FF#16)) s ∧
    exec (.decFault w) s = exec (.decFault (w &&& 0x007F#16)) s ∧
    exec (.decFaultPosition w) s = exec (.decFaultPosition (w &&& 0xFF7F#16)) s ∧
    (∀ w' : Word, exec (.decSpeedForce w) s = exec (.decSpeedForce w') s → w = w') ∧
    (∀ w' : Word, exec (.decVoltageTemperature w) s = exec (.decVoltageTemperature w') s → w = w')

/-- 41_status_decoder.md R117: the fault part of DEC_FAULT_POSITION is what DEC_FAULT gives for the word and for its low
byte, and the three pair decoders take their high-byte field alike. That DEC_FAULT takes the whole word and ignores bits
15:8 is a choice, 92_eei_decisions.md D11 (notes/assumptions/20). -/
def Obligations.DecodersCompose : Prop :=
  ∀ w : Word, ∃ (fp : FaultPosition) (sf : SpeedForce) (vt : VoltageTemperature), ∀ s : State,
    exec (.decFaultPosition w) s = .next { s with responses := s.responses ++ [.decFaultPosition fp] } ∧
    exec (.decFault w) s = .next { s with responses := s.responses ++ [.decFault fp.fault] } ∧
    exec (.decFault (w &&& 0x00FF#16)) s = .next { s with responses := s.responses ++ [.decFault fp.fault] } ∧
    exec (.decSpeedForce w) s = .next { s with responses := s.responses ++ [.decSpeedForce sf] } ∧
    exec (.decVoltageTemperature w) s = .next { s with responses := s.responses ++ [.decVoltageTemperature vt] } ∧
    fp.position = sf.force ∧ sf.force = vt.temperature ∧ vt.temperature.toNat = (w.toNat >>> 8) &&& 0xFF

/-- 30_encoding.md R90: what DEC_STATUS makes of a control word. It is not the inverse of ENC_CONTROL: the mode flag, bit 1,
reads as `dropDetected`, status bit 2, `parameterlessMode`, is the reserved control bit, the activation field is the two
release flags, and the motion field is 0. That the control value is the word's low byte is a choice, R72 with
92_eei_decisions.md D5 (notes/assumptions/20). -/
def Obligations.DecStatusIsNotInverseOfEncControl : Prop :=
  ∀ cmd : ControlCommand, ∃ (b : Byte) (w : Word) (st : GripperStatus),
    (∀ s : State, exec (.encControl cmd) s = .next { s with responses := s.responses ++ [.encControl b w] }) ∧
    (∀ s : State, exec (.decStatus w) s = .next { s with responses := s.responses ++ [.decStatus st] }) ∧
    st.activated = cmd.enable ∧ st.dropDetected = cmd.parameterlessMode ∧ st.parameterlessMode = false ∧
    st.goingToTarget = cmd.moveToTarget ∧ st.activationState.getLsbD 0 = cmd.emergencyRelease ∧
    st.activationState.getLsbD 1 = cmd.releaseDirection ∧ st.motionState = 0#2

/-! ### The request and its encoding -/

/-- 00_scope.md R10, 30_encoding.md R87, 60_exceptions.md R160: every request, whatever its ports carry, is taken in one
step that answers a next state: one response more, and nothing else changed. -/
def Obligations.EveryRequestIsAnswered : Prop :=
  ∀ (r : Request) (s : State), ∃ resp : Response,
    step (s.feed [.request r]) = .next { s with responses := s.responses ++ [resp] }

/-- 10_state.md R24: an operation reads only its own ports; the others may hold any value. -/
def Obligations.UnusedPortsDoNotMatter : Prop :=
  ∀ (r r' : Request) (s : State), r.op = r'.op →
    (r.op = 0#3 → r.command = r'.command) → (r.op = 1#3 → r.position = r'.position) →
    (r.op = 2#3 → r.speed = r'.speed ∧ r.force = r'.force) → (3 ≤ r.op.toNat → r.word = r'.word) →
    step (s.feed [.request r]) = step (s.feed [.request r'])

/-- 10_state.md R20: the block keeps nothing between requests. One function of the request alone gives every response, for
every sequence of requests, from every state and whatever inputs follow; so a permutation of requests permutes the
responses (95_test_vectors.md P1). -/
def Obligations.ResponsesDependOnRequestsAlone : Prop :=
  ∃ f : Request → Response, ∀ (rs : List Request) (s : State),
    run rs.length (s.feed (rs.map .request)) = .next { s with responses := s.responses ++ rs.map f }

/-- 30_encoding.md R80: the code on `op` alone selects the operation, and its operands come from the ports of R24. -/
def Obligations.OpSelectsTheOperation : Prop :=
  ∀ r : Request,
    (r.op = 0#3 → decodeRequest r = .encControl r.command) ∧
    (r.op = 1#3 → decodeRequest r = .encPosition r.position) ∧
    (r.op = 2#3 → decodeRequest r = .encSpeedForce r.speed r.force) ∧
    (r.op = 3#3 → decodeRequest r = .decStatus r.word) ∧
    (r.op = 4#3 → decodeRequest r = .decFault r.word) ∧
    (r.op = 5#3 → decodeRequest r = .decFaultPosition r.word) ∧
    (r.op = 6#3 → decodeRequest r = .decSpeedForce r.word) ∧
    (r.op = 7#3 → decodeRequest r = .decVoltageTemperature r.word)

/-- Decode and encode agree: for every well-formed instruction, with every operand. The packing into bytes is the model's
(notes/assumptions/2). -/
def Obligations.DecodeOfEncode : Prop :=
  ∀ i : Instr, i.wellFormed = true → decode (encode i) = .ok i

/-- The other direction: bytes that carry a request with its unused ports zero are what the encoder writes for the
instruction they decode to, so no bit of a port is dropped. The packing into bytes is the model's (notes/assumptions/2). -/
def Obligations.EncodeOfDecode : Prop :=
  ∀ (bytes : List Byte) (r : Request), Request.ofBytes bytes = .ok r → r.canonical = true →
    ∃ i : Instr, decode bytes = .ok i ∧ encode i = bytes

/-- Seven bytes always decode; any other number is rejected by name. The packing into bytes is the model's
(notes/assumptions/2). -/
def Obligations.DecodeIsTotalOnSevenBytes : Prop :=
  ∀ bytes : List Byte,
    ((∃ i, decode bytes = .ok i) ↔ bytes.length = 7) ∧
    (bytes.length < 7 → decode bytes = .error (.tooShort bytes.length)) ∧
    (7 < bytes.length → decode bytes = .error (.tooLong bytes.length))

/-- A few requests of 95_test_vectors.md P1 written out as bits, `op` in bits 2:0: 0x28 = 00101 000 is ENC_CONTROL
1,0,1,0,0 (the five `c_` ports, the first lowest, above the code 000), and so on. The packing of the ports above `op` is
the model's (notes/assumptions/2). -/
def Obligations.WordsDecodeToTheirOperations : Prop :=
  decodeTableWord 56 0x00000000000028 =
    some (.encControl { ControlCommand.allFalse with enable := true, moveToTarget := true }) ∧
  decodeTableWord 56 0x0000000000C801 = some (.encPosition 200#16) ∧
  decodeTableWord 56 0x00004080000002 = some (.encSpeedForce 0x80#8 0x40#8) ∧
  decodeTableWord 56 0x00B90000000003 = some (.decStatus 0x00B9#16) ∧
  decodeTableWord 56 0x01050000000005 = some (.decFaultPosition 0x0105#16) ∧
  decodeTableWord 8 0x07 = some (.decVoltageTemperature 0#16)

/-- A step runs the decoded instruction: when the next input is a request whose bytes decode to a well-formed instruction,
the step is that instruction's meaning at the state with the request taken off. -/
def Obligations.StepRunsTheDecodedInstruction : Prop :=
  ∀ (s : State) (bytes : List Byte) (r : Request) (i : Instr) (rest : List Event),
    s.events = .request r :: rest → Request.ofBytes bytes = .ok r → decode bytes = .ok i → i.wellFormed = true →
    step s = exec i { s with events := rest }

/-- The word a table row gives, placed by `withFetchWord`, is run by the very next step as the instruction the decoder reads
from it. -/
def Obligations.FetchedWordIsRunNext : Prop :=
  ∀ (s : State) (nbits w : Nat) (i : Instr), decodeTableWord nbits w = some i →
    step (s.withFetchWord nbits w) = exec i s

/-- 00_scope.md R11: between inputs nothing moves. That the step without an input stands still is the model's choice
(notes/assumptions/1). -/
def Obligations.NoInputNoChange : Prop :=
  ∀ s : State, s.events = [] → step s = .next s

/-! ### The register map -/

/-- 20_memory.md R52 and 00_scope.md R7: the addresses are the bases plus the offsets, none wraps, no two registers of a
group share one, and the status read asks for two words, every other read for one. -/
def Obligations.RegisterMapAddresses : Prop :=
  (ControlRegister.control.address.toNat = Config.controlBase.val + 0 ∧
    ControlRegister.position.address.toNat = Config.controlBase.val + 1 ∧
    ControlRegister.speedForce.address.toNat = Config.controlBase.val + 2) ∧
  (StatusRegister.status.address.toNat = Config.inputBase.val + 0 ∧
    StatusRegister.faultPosition.address.toNat = Config.inputBase.val + 1 ∧
    StatusRegister.speedForce.address.toNat = Config.inputBase.val + 2 ∧
    StatusRegister.voltageTemperature.address.toNat = Config.inputBase.val + 3 ∧
    StatusRegister.softwareInfo.address.toNat = Config.inputBase.val + 4) ∧
  (∀ r r' : ControlRegister, r.address = r'.address → r = r') ∧
  (∀ r r' : StatusRegister, r.address = r'.address → r = r') ∧
  (∀ r : StatusRegister, r.count = if r = .status then 2 else 1)

/-! ### Session operations: the address and the reads -/

/-- 42_host_sequences.md R131: an address up to 247 is assigned; a larger one raises ConfigurationError and the address
stays. Only that session and the record of results change. That a rejected address leaves the old one is a choice,
92_eei_decisions.md D22 (notes/assumptions/20). The link is free, as R151 asks of every step of a session. -/
def Obligations.SetDeviceAddress : Prop :=
  ∀ (s : State) (k : Nat) (u a : Byte), s.At k u .idle → s.link = none →
    ∃ t : State, step (s.feed [.invoke k (.setDeviceAddress a)]) = .next t ∧
      (a.toNat ≤ 247 → t.At k a .idle ∧ t.results = s.results ++ [(k, .done)]) ∧
      (247 < a.toNat → t.At k u .idle ∧ t.results = s.results ++ [(k, .error (.configurationError a))]) ∧
      (∀ j, j ≠ k → t.sessions[j]? = s.sessions[j]?) ∧
      t = { s with sessions := t.sessions, results := t.results }

/-- 42_host_sequences.md R132: an address change while a call of the session is outstanding has no meaning. -/
def Obligations.AddressChangeInFlightRefused : Prop :=
  ∀ (s : State) (k : Nat) (x : Session) (c : Call) (a : Byte),
    s.link = some { session := k, call := c } → s.sessions[k]? = some x → x.awaitedCall = some c →
    step (s.feed [.invoke k (.setDeviceAddress a)]) = .refused .addressChangeInFlight

/-- 42_host_sequences.md R130: a session has one thread, so no operation starts while another of it is in progress, be it at
a call or in a sleep; a change of the address is refused under its own name. That the refusal covers the whole operation
is the model's choice (notes/assumptions/14, 15). -/
def Obligations.BusySessionStartsNothing : Prop :=
  ∀ (s : State) (k : Nat) (u : Byte) (act : Activity) (op : SessionOp), s.At k u act → act ≠ .idle →
    step (s.feed [.invoke k op]) =
      .refused (if ∃ a, op = .setDeviceAddress a then .addressChangeInFlight else .sessionBusy)

/-- 42_host_sequences.md R133: `readStatus` reads two words at INPUT_BASE and hands DEC_STATUS of the first to its caller; a
failing read is its TransportError. That any other number of words is a malformed response is 20_memory.md R62 with
92_eei_decisions.md D25 (notes/assumptions/10). Whatever the devices change in their control registers while the read is
outstanding, its side effects among it (20_memory.md R60), is so changed, and nothing else is. That such changes are inputs
is the model's choice (notes/assumptions/21). -/
def Obligations.ReadStatus : Prop :=
  ∀ (s : State) (k : Nat) (u : Byte) (r : Reply) (changes : List DeviceChange), s.At k u .idle → s.link = none →
    ∃ res : Result,
      run (changes.length + 2) (s.feed (.invoke k .readStatus :: (changes.map .deviceChange ++ [.reply r]))) =
        .next { s with
          control := (s.deviceChanges changes).control
          trace := s.trace ++ [.readInput u (BitVec.ofNat 16 (Config.inputBase.val + 0)) 2]
          results := s.results ++ [(k, res)] } ∧
      (∀ w0 w1 : Word, r = .ok [w0, w1] → res = .status (decodeStatus w0)) ∧
      (∀ ws : List Word, r = .ok ws → ws.length ≠ 2 → res = .error (.transportError .malformedResponse)) ∧
      (∀ f landed, r = .failed f landed → res = .error (.transportError f))

/-- 42_host_sequences.md R134 to R137: each of the other four reads asks for one word at its own address and hands the
word through its decoder, SOFTWARE_INFO raw (92_eei_decisions.md D21); a failing read is its TransportError. That any
other number of words is a malformed response is 20_memory.md R62 with D25 (notes/assumptions/10). Whatever the devices
change in their control registers while the read is outstanding, its side effects among it (20_memory.md R60), is so
changed, and nothing else is. That such changes are inputs is the model's choice (notes/assumptions/21). -/
def Obligations.SingleWordReads : Prop :=
  ∀ (s : State) (k : Nat) (u : Byte) (r : Reply) (op : SessionOp) (offset : Nat) (value : Word → Result)
    (changes : List DeviceChange),
    s.At k u .idle → s.link = none →
    (op, offset, value) ∈
      [(SessionOp.readFaultPosition, 1, fun w => Result.faultPosition (decodeFaultPosition w)),
       (SessionOp.readSpeedForce, 2, fun w => Result.speedForce (decodeSpeedForce w)),
       (SessionOp.readVoltageTemperature, 3, fun w => Result.voltageTemperature (decodeVoltageTemperature w)),
       (SessionOp.readSoftwareVersion, 4, fun w => Result.softwareVersion w)] →
    ∃ res : Result,
      run (changes.length + 2) (s.feed (.invoke k op :: (changes.map .deviceChange ++ [.reply r]))) =
        .next { s with
          control := (s.deviceChanges changes).control
          trace := s.trace ++ [.readInput u (BitVec.ofNat 16 (Config.inputBase.val + offset)) 1]
          results := s.results ++ [(k, res)] } ∧
      (∀ w : Word, r = .ok [w] → res = value w) ∧
      (∀ ws : List Word, r = .ok ws → ws.length ≠ 1 → res = .error (.transportError .malformedResponse)) ∧
      (∀ f landed, r = .failed f landed → res = .error (.transportError f))

/-! ### Session operations: the writes -/

/-- 42_host_sequences.md R138, R141, R142: each single write sends the encoder's word to its own register and returns when
the call succeeds; then the register holds the word and every other register of every device holds what it held, which
is the model's choice (notes/assumptions/6). -/
def Obligations.SingleWrites : Prop :=
  ∀ (s : State) (k : Nat) (u : Byte) (op : SessionOp) (offset : Nat) (w : Word) (ws : List Word),
    s.At k u .idle → s.link = none →
    ((∃ cmd b, op = .writeControl cmd ∧ offset = 0 ∧
        exec (.encControl cmd) s = .next { s with responses := s.responses ++ [.encControl b w] }) ∨
      (∃ pos, op = .setTargetPosition pos ∧ offset = 1 ∧
        exec (.encPosition pos) s = .next { s with responses := s.responses ++ [.encPosition w] }) ∨
      (∃ speed force, op = .setSpeedForce speed force ∧ offset = 2 ∧
        exec (.encSpeedForce speed force) s = .next { s with responses := s.responses ++ [.encSpeedForce w] })) →
    ∃ t : State,
      run 2 (s.feed [.invoke k op, .reply (.ok ws)]) = .next t ∧
      t = { s with
        trace := s.trace ++ [.writeRegs u (BitVec.ofNat 16 (Config.controlBase.val + offset)) [w]]
        results := s.results ++ [(k, .done)]
        control := t.control } ∧
      (∀ (u' : Byte) (a : Word), t.controlWord u' a =
        if u' = u ∧ a = BitVec.ofNat 16 (Config.controlBase.val + offset) then w else s.controlWord u' a)

/-- 42_host_sequences.md R139, R140, R143, R148: the words of the four helper commands, all to CONTROL: 0x0000, 0x0001,
0x0009, 0x0001, with the placement of 92_eei_decisions.md D5 (notes/assumptions/20). What the device does on them is its
firmware's (notes/assumptions/7); that its registers hold what was written is the model's choice (notes/assumptions/6). -/
def Obligations.HelperCommandWords : Prop :=
  ∀ (s : State) (k : Nat) (u : Byte) (op : SessionOp) (w : Word) (ws : List Word),
    s.At k u .idle → s.link = none →
    (op, w) ∈ [(SessionOp.clearControl, 0x0000#16), (SessionOp.activate, 0x0001#16),
      (SessionOp.executeMove, 0x0009#16), (SessionOp.stop, 0x0001#16)] →
    ∃ t : State,
      run 2 (s.feed [.invoke k op, .reply (.ok ws)]) = .next t ∧
      t = { s with
        trace := s.trace ++ [.writeRegs u (BitVec.ofNat 16 (Config.controlBase.val + 0)) [w]]
        results := s.results ++ [(k, .done)]
        control := t.control } ∧
      (∀ (u' : Byte) (a : Word), t.controlWord u' a =
        if u' = u ∧ a = BitVec.ofNat 16 (Config.controlBase.val + 0) then w else s.controlWord u' a)

/-- 70_reset_and_hazards.md R191: `stop()` and `activate()` do not differ in any observable way, whatever comes after. -/
def Obligations.StopIsActivate : Prop :=
  ∀ (s : State) (k n : Nat) (es : List Event),
    run (n + 1) (s.feed (.invoke k .stop :: es)) = run (n + 1) (s.feed (.invoke k .activate :: es))

/-- 42_host_sequences.md R144: `moveToPosition` is two writes in order, POSITION with the shifted target and then CONTROL with
0x0009, the second going out after the answer to the first. That the registers hold what was written is the model's
choice (notes/assumptions/6). -/
def Obligations.MoveToPositionWritesInOrder : Prop :=
  ∀ (s : State) (k : Nat) (u : Byte) (pos : Word) (ws ws' : List Word), s.At k u .idle → s.link = none →
    ∃ t : State,
      run 4 (s.feed [.invoke k (.moveToPosition pos), .reply (.ok ws), .resume k, .reply (.ok ws')]) = .next t ∧
      t = { s with
        trace := s.trace ++
          [.writeRegs u (BitVec.ofNat 16 (Config.controlBase.val + 1)) [pos <<< 8],
           .writeRegs u (BitVec.ofNat 16 (Config.controlBase.val + 0)) [0x0009#16]]
        results := s.results ++ [(k, .done)]
        control := t.control } ∧
      (∀ (u' : Byte) (a : Word), t.controlWord u' a =
        if u' = u ∧ a = BitVec.ofNat 16 (Config.controlBase.val + 1) then pos <<< 8
        else if u' = u ∧ a = BitVec.ofNat 16 (Config.controlBase.val + 0) then 0x0009#16
        else s.controlWord u' a)

/-- 70_reset_and_hazards.md R187, 20_memory.md R59: the writes of `moveToPosition` are not folded into one. After the answer to
the first the link is free, the new target is in POSITION, CONTROL is as it was, and the operation has not returned. Any
other idle session can read the device there, whatever it is answered, and then `moveToPosition` goes on with its second
write; the control registers are changed by what the devices change while the read is outstanding (20_memory.md R60), and by
nothing else. That a write lands with its answer is the model's choice (notes/assumptions/6), and that the devices' changes
are inputs is its choice too (notes/assumptions/21). -/
def Obligations.CompositeIntermediateStateShows : Prop :=
  ∀ (s : State) (k : Nat) (u : Byte) (pos : Word) (ws : List Word), s.At k u .idle → s.link = none →
    ∃ t : State,
      run 2 (s.feed [.invoke k (.moveToPosition pos), .reply (.ok ws)]) = .next t ∧
      t.controlWord u (BitVec.ofNat 16 (Config.controlBase.val + 1)) = pos <<< 8 ∧
      t.controlWord u (BitVec.ofNat 16 (Config.controlBase.val + 0)) =
        s.controlWord u (BitVec.ofNat 16 (Config.controlBase.val + 0)) ∧
      t.link = none ∧ t.results = s.results ∧
      (∀ (j : Nat) (v : Byte) (r : Reply) (changes : List DeviceChange), j ≠ k → s.At j v .idle →
        ∃ (t' : State) (res : Result),
          run (changes.length + 3)
              (t.feed (.invoke j .readStatus :: (changes.map .deviceChange ++ [.reply r, .resume k]))) = .next t' ∧
          t'.trace = s.trace ++
            [.writeRegs u (BitVec.ofNat 16 (Config.controlBase.val + 1)) [pos <<< 8],
             .readInput v (BitVec.ofNat 16 (Config.inputBase.val + 0)) 2,
             .writeRegs u (BitVec.ofNat 16 (Config.controlBase.val + 0)) [0x0009#16]] ∧
          t'.link = some
            { session := k, call := .writeRegs u (BitVec.ofNat 16 (Config.controlBase.val + 0)) [0x0009#16] } ∧
          t'.results = s.results ++ [(j, res)] ∧ t'.control = (t.deviceChanges changes).control)

/-- 70_reset_and_hazards.md R187, 42_host_sequences.md R150: between any two writes of any composite. The answer to one
leaves the link free and the session suspended at it, with no result; when the session goes on, the next write goes out.
Nothing else changes, but that the answered write is in the device, which is the model's choice (notes/assumptions/6);
that a session goes on in a step after the answer is the model's reading (notes/assumptions/16). -/
def Obligations.LinkIsFreeBetweenWrites : Prop :=
  (∀ (s : State) (k : Nat) (u : Byte) (c : Call) (now next : ControlWrite) (later : List ControlWrite) (ws : List Word),
    s.At k u (.writing now (next :: later)) → s.link = some { session := k, call := c } →
    ∃ t, step (s.feed [.reply (.ok ws)]) = .next t ∧ t.At k u (.answered next later) ∧
      (∀ j, j ≠ k → t.sessions[j]? = s.sessions[j]?) ∧
      t = { s with sessions := t.sessions, link := none, control := (s.land c).control }) ∧
  (∀ (s : State) (k : Nat) (u : Byte) (next : ControlWrite) (later : List ControlWrite),
    s.At k u (.answered next later) → s.link = none →
    ∃ t, step (s.feed [.resume k]) = .next t ∧ t.At k u (.writing next later) ∧
      (∀ j, j ≠ k → t.sessions[j]? = s.sessions[j]?) ∧
      t = { s with
        sessions := t.sessions
        link := some { session := k, call := .writeRegs u next.register.address [next.word] }
        trace := s.trace ++ [.writeRegs u next.register.address [next.word]] })

/-- 42_host_sequences.md R145: `executeControlMovement` is four writes in this order: SPEED_FORCE, POSITION, CONTROL,
CONTROL, the last two with 0x0009, each going out after the answer to the one before. That there are four is a choice,
92_eei_decisions.md D19 (notes/assumptions/20), and that the registers hold what was written is the model's
(notes/assumptions/6). -/
def Obligations.ExecuteControlMovementWritesInOrder : Prop :=
  ∀ (s : State) (k : Nat) (u speed force : Byte) (pos : Word) (w1 w2 w3 w4 : List Word),
    s.At k u .idle → s.link = none →
    ∃ t : State,
      run 8 (s.feed [.invoke k (.executeControlMovement speed force pos), .reply (.ok w1), .resume k, .reply (.ok w2),
        .resume k, .reply (.ok w3), .resume k, .reply (.ok w4)]) = .next t ∧
      t = { s with
        trace := s.trace ++
          [.writeRegs u (BitVec.ofNat 16 (Config.controlBase.val + 2)) [force ++ speed],
           .writeRegs u (BitVec.ofNat 16 (Config.controlBase.val + 1)) [pos <<< 8],
           .writeRegs u (BitVec.ofNat 16 (Config.controlBase.val + 0)) [0x0009#16],
           .writeRegs u (BitVec.ofNat 16 (Config.controlBase.val + 0)) [0x0009#16]]
        results := s.results ++ [(k, .done)]
        control := t.control } ∧
      (∀ (u' : Byte) (a : Word), t.controlWord u' a =
        if u' = u ∧ a = BitVec.ofNat 16 (Config.controlBase.val + 2) then force ++ speed
        else if u' = u ∧ a = BitVec.ofNat 16 (Config.controlBase.val + 1) then pos <<< 8
        else if u' = u ∧ a = BitVec.ofNat 16 (Config.controlBase.val + 0) then 0x0009#16
        else s.controlWord u' a)

/-- 70_reset_and_hazards.md R193: an operation with a target outside 0..255 is the same operation as with the target modulo
256. -/
def Obligations.SilentPositionWrap : Prop :=
  ∀ (s : State) (k : Nat) (pos : Word) (speed force : Byte),
    step (s.feed [.invoke k (.setTargetPosition pos)]) =
      step (s.feed [.invoke k (.setTargetPosition (BitVec.ofNat 16 (pos.toNat % 256)))]) ∧
    step (s.feed [.invoke k (.moveToPosition pos)]) =
      step (s.feed [.invoke k (.moveToPosition (BitVec.ofNat 16 (pos.toNat % 256)))]) ∧
    step (s.feed [.invoke k (.executeControlMovement speed force pos)]) =
      step (s.feed [.invoke k (.executeControlMovement speed force (BitVec.ofNat 16 (pos.toNat % 256)))])

/-! ### Errors -/

/-- 42_host_sequences.md R149: when the call outstanding fails, the operation ends at once, whatever it was, with that very
TransportError; no later call is issued, and nothing already written is undone. Whether a failed write reached the device
is an input, which is the model's choice (notes/assumptions/8): where it did, the registers are those after that write,
and where it did not, they are as they were. What else the call did in the device is an input of its own, which is the
model's choice too (20_memory.md R60, notes/assumptions/21). -/
def Obligations.FailingCallEndsOperation : Prop :=
  ∀ (s : State) (k : Nat) (x : Session) (c : Call) (f : TransportFailure) (landed : Bool),
    s.link = some { session := k, call := c } → s.sessions[k]? = some x → x.awaitedCall = some c →
    ∃ t : State, step (s.feed [.reply (.failed f landed)]) = .next t ∧
      t.At k x.unitId .idle ∧ (∀ j, j ≠ k → t.sessions[j]? = s.sessions[j]?) ∧
      t = { s with
        sessions := t.sessions
        link := none
        control := if landed then (s.land c).control else s.control
        results := s.results ++ [(k, .error (.transportError f))] }

/-- 42_host_sequences.md R144, R149: when the first write of `moveToPosition` fails, the second is not issued. The failed
write is one that the input says did not land (notes/assumptions/8). -/
def Obligations.FailedFirstWriteStopsComposite : Prop :=
  ∀ (s : State) (k : Nat) (u : Byte) (pos : Word) (f : TransportFailure), s.At k u .idle → s.link = none →
    run 2 (s.feed [.invoke k (.moveToPosition pos), .reply (.failed f false)]) =
      .next { s with
        trace := s.trace ++ [.writeRegs u (BitVec.ofNat 16 (Config.controlBase.val + 1)) [pos <<< 8]]
        results := s.results ++ [(k, .error (.transportError f))] }

/-- 60_exceptions.md R161, R162, R163: each host error comes from its own cause only: ConfigurationError from a setter call
with an address above 247; TransportError from the answer to the session's own outstanding call, which failed, or was
a read answered with another number of words than it asked for (20_memory.md R62 with 92_eei_decisions.md D25,
notes/assumptions/10); TimeoutError from a poll of `waitForActivation` answered at or after its deadline on the model's
clock (notes/assumptions/11), and without ACTIVATED where LATE_SUCCESS_COUNTS, never from `waitForMove`. -/
def Obligations.HostErrorsHaveTheirCauses : Prop :=
  ∀ (s t : State) (k : Nat) (e : HostError), step s = .next t → t.results = s.results ++ [(k, .error e)] →
    (∃ (u a : Byte) (rest : List Event), e = .configurationError a ∧ 247 < a.toNat ∧ s.At k u .idle ∧
      s.events = .invoke k (.setDeviceAddress a) :: rest) ∨
    (∃ (c : Call) (r : Reply) (f : TransportFailure) (rest : List Event), e = .transportError f ∧
      s.link = some { session := k, call := c } ∧ s.events = .reply r :: rest ∧
      ((∃ landed, r = .failed f landed) ∨
       (∃ (u : Byte) (ws : List Word), f = .malformedResponse ∧ r = .ok ws ∧
         ((∃ register, s.At k u (.reading register) ∧ ws.length ≠ if register = .status then 2 else 1) ∨
          (∃ wait, s.At k u (.polling wait) ∧ ws.length ≠ 2))))) ∨
    (∃ (u : Byte) (c : Call) (deadline : Nat) (w0 w1 : Word) (rest : List Event), e = .timeoutError ∧
      s.link = some { session := k, call := c } ∧ s.At k u (.polling (.activation deadline)) ∧
      s.events = .reply (.ok [w0, w1]) :: rest ∧ deadline ≤ s.clock ∧
      (Config.lateSuccessCounts = true → w0.extractLsb' 4 2 ≠ 3#2))

/-! ### The waits -/

/-- 42_host_sequences.md R146: one turn of `waitForMove`. It starts with a poll, issued at once on a free link. An answered
poll ends it when the motion field is not 0; else it ends if cancellation was requested; else it sleeps POLL_PERIOD. Out
of the sleep, however late, it polls again. A poll answered with other than two words ends it with a TransportError, a
malformed response (20_memory.md R62, 92_eei_decisions.md D25, notes/assumptions/10). Nothing else changes. Choices: the read
before the sleep, 92_eei_decisions.md D20 (notes/assumptions/20); the outcome `cancelled` (notes/assumptions/12); the clock
(notes/assumptions/11); that what a poll does in the device is an input of its own (20_memory.md R60,
notes/assumptions/21). -/
def Obligations.WaitForMoveLoop : Prop :=
  (∀ (s : State) (k : Nat) (u : Byte), s.At k u .idle → s.link = none →
    ∃ t, step (s.feed [.invoke k .waitForMove]) = .next t ∧ t.At k u (.polling (.move false)) ∧
      (∀ j, j ≠ k → t.sessions[j]? = s.sessions[j]?) ∧
      t = { s with
        sessions := t.sessions
        link := some { session := k, call := .readInput u (BitVec.ofNat 16 (Config.inputBase.val + 0)) 2 }
        trace := s.trace ++ [.readInput u (BitVec.ofNat 16 (Config.inputBase.val + 0)) 2] }) ∧
  (∀ (s : State) (k : Nat) (u : Byte) (c : Call) (cancelled : Bool) (w0 w1 : Word),
    s.At k u (.polling (.move cancelled)) → s.link = some { session := k, call := c } →
    ∃ t, step (s.feed [.reply (.ok [w0, w1])]) = .next t ∧
      (∀ j, j ≠ k → t.sessions[j]? = s.sessions[j]?) ∧
      t = { s with sessions := t.sessions, link := none, results := t.results } ∧
      (w0.extractLsb' 6 2 ≠ 0#2 → t.At k u .idle ∧ t.results = s.results ++ [(k, .done)]) ∧
      (w0.extractLsb' 6 2 = 0#2 → cancelled = true → t.At k u .idle ∧ t.results = s.results ++ [(k, .cancelled)]) ∧
      (w0.extractLsb' 6 2 = 0#2 → cancelled = false →
        t.At k u (.sleeping (.move false) (s.clock + Config.pollPeriod)) ∧ t.results = s.results)) ∧
  (∀ (s : State) (k : Nat) (u : Byte) (c : Call) (cancelled : Bool) (ws : List Word),
    s.At k u (.polling (.move cancelled)) → s.link = some { session := k, call := c } → ws.length ≠ 2 →
    ∃ t, step (s.feed [.reply (.ok ws)]) = .next t ∧ t.At k u .idle ∧
      (∀ j, j ≠ k → t.sessions[j]? = s.sessions[j]?) ∧
      t = { s with
        sessions := t.sessions
        link := none
        results := s.results ++ [(k, .error (.transportError .malformedResponse))] }) ∧
  (∀ (s : State) (k : Nat) (u : Byte) (wakeTime : Nat) (cancelled : Bool),
    s.At k u (.sleeping (.move cancelled) wakeTime) → s.link = none →
    ∃ t, step (s.feed [.resume k]) = .next t ∧ t.At k u (.polling (.move cancelled)) ∧
      (∀ j, j ≠ k → t.sessions[j]? = s.sessions[j]?) ∧
      t = { s with
        sessions := t.sessions
        clock := max s.clock wakeTime
        link := some { session := k, call := .readInput u (BitVec.ofNat 16 (Config.inputBase.val + 0)) 2 }
        trace := s.trace ++ [.readInput u (BitVec.ofNat 16 (Config.inputBase.val + 0)) 2] })

/-- 42_host_sequences.md R146: no step takes an uncancelled `waitForMove` out of its loop but the answer to its own poll, and
not that one while it says MOVING_TO_POSITION: no internal timeout exists. -/
def Obligations.WaitForMoveLeftOnlyByItsPoll : Prop :=
  ∀ (s t : State) (k : Nat), s.WaitsForMove k → step s = .next t →
    (∀ rest, s.events ≠ .cancel k :: rest) →
    (∀ c r rest, s.link = some { session := k, call := c } → s.events = .reply r :: rest → r.StillMoving) →
    t.WaitsForMove k

/-- 42_host_sequences.md R146, 95_test_vectors.md S8: with a device that always reports MOVING_TO_POSITION and no
cancellation, `waitForMove` never returns on its own, after any number of steps, however much time passes: it stays in
its loop, and what its session returned is, in order, what it had returned before. -/
def Obligations.WaitForMoveNeverReturnsAlone : Prop :=
  ∀ (n : Nat) (s t : State) (k : Nat), s.WaitsForMove k → (∀ e ∈ s.events, e.KeepsMoving k) → run n s = .next t →
    t.WaitsForMove k ∧ t.results.filter (fun p => p.1 == k) = s.results.filter (fun p => p.1 == k)

/-- 42_host_sequences.md R152: a cancellation of `waitForMove`, be it in its sleep or while its poll is outstanding, ends it
at the next answered poll that shows the device still moving. Nothing else changes but, out of the sleep, the clock and the
trace, which has the poll; elsewhere a cancellation changes nothing. The outcome's name, and that the signal waits for the
next answer, are the model's (notes/assumptions/12), and so are the clock, which stands at the end of the sleep or where it
was, if later (notes/assumptions/11; R196 gives a lower bound only), and that what a poll does in the device is an input of
its own (20_memory.md R60, notes/assumptions/21). -/
def Obligations.CancellationEndsWaitForMove : Prop :=
  (∀ (s : State) (k : Nat) (u : Byte) (wakeTime : Nat) (r : Reply), s.At k u (.sleeping (.move false) wakeTime) →
    s.link = none → r.StillMoving →
    ∃ t, run 3 (s.feed [.cancel k, .resume k, .reply r]) = .next t ∧ t.At k u .idle ∧
      (∀ j, j ≠ k → t.sessions[j]? = s.sessions[j]?) ∧
      t = { s with
        sessions := t.sessions
        clock := max s.clock wakeTime
        trace := s.trace ++ [.readInput u (BitVec.ofNat 16 (Config.inputBase.val + 0)) 2]
        results := s.results ++ [(k, .cancelled)] }) ∧
  (∀ (s : State) (k : Nat) (u : Byte) (c : Call) (cancelled : Bool) (r : Reply), s.At k u (.polling (.move cancelled)) →
    s.link = some { session := k, call := c } → r.StillMoving →
    ∃ t, run 2 (s.feed [.cancel k, .reply r]) = .next t ∧ t.At k u .idle ∧
      (∀ j, j ≠ k → t.sessions[j]? = s.sessions[j]?) ∧
      t = { s with sessions := t.sessions, link := none, results := s.results ++ [(k, .cancelled)] }) ∧
  (∀ (s : State) (k : Nat) (u : Byte) (act : Activity), s.At k u act →
    (∀ cancelled, act ≠ .polling (.move cancelled)) → (∀ cancelled wakeTime, act ≠ .sleeping (.move cancelled) wakeTime) →
    step (s.feed [.cancel k]) = .next s)

/-- 42_host_sequences.md R147: one turn of `waitForActivation`. It starts with a poll, issued at once on a free link, with the
deadline ACTIVATION_DEADLINE from entry. An answered poll ends it when the activation field is 3, raises TimeoutError at
or after the deadline, and else sleeps POLL_PERIOD; LATE_SUCCESS_COUNTS says which of the first two wins. Out of the
sleep it polls again with the same deadline. A poll answered with other than two words ends it with a TransportError, a
malformed response, before any test (60_exceptions.md R168, 20_memory.md R62, 92_eei_decisions.md D25,
notes/assumptions/10). Nothing else changes. Choices: the read before the sleep and the place of the deadline test,
92_eei_decisions.md D20 (notes/assumptions/20); the clock (notes/assumptions/11); that what a poll does in the device is an
input of its own (20_memory.md R60, notes/assumptions/21). -/
def Obligations.WaitForActivationLoop : Prop :=
  (∀ (s : State) (k : Nat) (u : Byte), s.At k u .idle → s.link = none →
    ∃ t, step (s.feed [.invoke k .waitForActivation]) = .next t ∧
      t.At k u (.polling (.activation (s.clock + Config.activationDeadline))) ∧
      (∀ j, j ≠ k → t.sessions[j]? = s.sessions[j]?) ∧
      t = { s with
        sessions := t.sessions
        link := some { session := k, call := .readInput u (BitVec.ofNat 16 (Config.inputBase.val + 0)) 2 }
        trace := s.trace ++ [.readInput u (BitVec.ofNat 16 (Config.inputBase.val + 0)) 2] }) ∧
  (∀ (s : State) (k : Nat) (u : Byte) (c : Call) (deadline : Nat) (w0 w1 : Word),
    s.At k u (.polling (.activation deadline)) → s.link = some { session := k, call := c } →
    ∃ t, step (s.feed [.reply (.ok [w0, w1])]) = .next t ∧
      (∀ j, j ≠ k → t.sessions[j]? = s.sessions[j]?) ∧
      t = { s with sessions := t.sessions, link := none, results := t.results } ∧
      (w0.extractLsb' 4 2 = 3#2 → (s.clock < deadline ∨ Config.lateSuccessCounts = true) →
        t.At k u .idle ∧ t.results = s.results ++ [(k, .done)]) ∧
      (deadline ≤ s.clock → (w0.extractLsb' 4 2 ≠ 3#2 ∨ Config.lateSuccessCounts = false) →
        t.At k u .idle ∧ t.results = s.results ++ [(k, .error .timeoutError)]) ∧
      (w0.extractLsb' 4 2 ≠ 3#2 → s.clock < deadline →
        t.At k u (.sleeping (.activation deadline) (s.clock + Config.pollPeriod)) ∧ t.results = s.results)) ∧
  (∀ (s : State) (k : Nat) (u : Byte) (c : Call) (deadline : Nat) (ws : List Word),
    s.At k u (.polling (.activation deadline)) → s.link = some { session := k, call := c } → ws.length ≠ 2 →
    ∃ t, step (s.feed [.reply (.ok ws)]) = .next t ∧ t.At k u .idle ∧
      (∀ j, j ≠ k → t.sessions[j]? = s.sessions[j]?) ∧
      t = { s with
        sessions := t.sessions
        link := none
        results := s.results ++ [(k, .error (.transportError .malformedResponse))] }) ∧
  (∀ (s : State) (k : Nat) (u : Byte) (wakeTime deadline : Nat),
    s.At k u (.sleeping (.activation deadline) wakeTime) → s.link = none →
    ∃ t, step (s.feed [.resume k]) = .next t ∧ t.At k u (.polling (.activation deadline)) ∧
      (∀ j, j ≠ k → t.sessions[j]? = s.sessions[j]?) ∧
      t = { s with
        sessions := t.sessions
        clock := max s.clock wakeTime
        link := some { session := k, call := .readInput u (BitVec.ofNat 16 (Config.inputBase.val + 0)) 2 }
        trace := s.trace ++ [.readInput u (BitVec.ofNat 16 (Config.inputBase.val + 0)) 2] })

/-- 95_test_vectors.md S7: polls answered ACTIVATING, ACTIVATING, ACTIVATED before the deadline end `waitForActivation`
normally with the third answer. The first poll is the one that starting it issued; two more are issued after two sleeps.
The exact time, where R196 gives a lower bound only, is the model's choice: no time passes in these inputs but in the
sleeps, and each ends on time (notes/assumptions/11). -/
def Obligations.ActivationAfterThreePolls : Prop :=
  ∀ (s : State) (k : Nat) (u : Byte) (call : Call) (deadline : Nat) (a b c a' b' c' : Word),
    s.At k u (.polling (.activation deadline)) → s.link = some { session := k, call := call } →
    s.clock + 2 * Config.pollPeriod < deadline →
    activationStateName (decodeStatus a).activationState = .activating →
    activationStateName (decodeStatus b).activationState = .activating →
    activationStateName (decodeStatus c).activationState = .activated →
    ∃ t, run 5 (s.feed [.reply (.ok [a, a']), .resume k, .reply (.ok [b, b']), .resume k, .reply (.ok [c, c'])]) =
        .next t ∧
      t.At k u .idle ∧ t.results = s.results ++ [(k, .done)] ∧ t.clock = s.clock + 2 * Config.pollPeriod ∧
      t.trace = s.trace ++ List.replicate 2 (.readInput u (BitVec.ofNat 16 (Config.inputBase.val + 0)) 2)

/-! ### The link, the device, time -/

/-- 42_host_sequences.md R151: while a call is outstanding on the link no suspended session goes on and no idle session starts
an operation, be it one without a call of its own, the setter of the address. The refusal's name is the model's
(notes/assumptions/15). -/
def Obligations.BusyLinkHoldsSessionsBack : Prop :=
  (∀ (s : State) (k : Nat), s.link.isSome = true → step (s.feed [.resume k]) = .refused .linkBusy) ∧
  (∀ (s : State) (k : Nat) (u : Byte) (op : SessionOp), s.link.isSome = true → s.At k u .idle →
    step (s.feed [.invoke k op]) = .refused .linkBusy)

/-- 42_host_sequences.md R150: an operation is suspended only at the answer to its own call, which is the one outstanding or is
answered and not yet taken, or in the sleep of a wait (notes/assumptions/16). Every step keeps that of every session, whatever else the state holds. -/
def Obligations.SuspendedOnlyAtAnswerOrSleep : Prop :=
  ∀ s t : State, s.Suspended → step s = .next t → t.Suspended

/-- 20_memory.md R63: calls go out one at a time. Any step leaves the trace as it is, or no call was outstanding, the step
starts an operation of one session or lets it go on, and it adds exactly the call that is outstanding after it. -/
def Obligations.CallsGoOutOneAtATime : Prop :=
  ∀ s t : State, step s = .next t →
    t.trace = s.trace ∨
    ∃ (k : Nat) (c : Call) (rest : List Event), t.link = some { session := k, call := c } ∧ t.trace = s.trace ++ [c] ∧
      s.link = none ∧ ((∃ op, s.events = .invoke k op :: rest) ∨ s.events = .resume k :: rest)

/-- 10_state.md R37: what has been returned is never changed: each step keeps the responses, the results and the trace it
finds, and adds at the end. -/
def Obligations.RecordsOnlyGrow : Prop :=
  ∀ s t : State, step s = .next t →
    (∃ l, t.responses = s.responses ++ l) ∧ (∃ l, t.results = s.results ++ l) ∧ (∃ l, t.trace = s.trace ++ l)

/-- 20_memory.md R60, R53, R61: a control register of a device changes only by the answer to a write that is outstanding for
that very device and takes in that address, or by a change that the device makes itself, which may come in any state, also
while a read is outstanding, is to that register of that device, and leaves everything else as it is. That a write lands
with its answer is the model's choice (notes/assumptions/6), and that the device's own changes are inputs is too
(notes/assumptions/21). -/
def Obligations.ControlRegistersChangeByWriteOrDevice : Prop :=
  (∀ (s : State) (c : DeviceChange), ∃ t : State, step (s.feed [.deviceChange c]) = .next t ∧
    t = { s with control := t.control } ∧
    ∀ (u : Byte) (a : Word),
      t.controlWord u a = if u.toNat = c.unit.val ∧ a = c.register.address then c.word else s.controlWord u a) ∧
  (∀ (s t : State) (u : Byte) (a : Word), step s = .next t → t.controlWord u a ≠ s.controlWord u a →
    (∃ (k i : Nat) (v : Byte) (start : Word) (values : List Word) (r : Reply) (rest : List Event),
      s.link = some { session := k, call := .writeRegs v start values } ∧ s.events = .reply r :: rest ∧
      i < values.length ∧ controlKey u a = controlKey v start + i) ∨
    (∃ (c : DeviceChange) (rest : List Event), s.events = .deviceChange c :: rest ∧ u.toNat = c.unit.val ∧
      a = c.register.address))

/-- 42_host_sequences.md R130, 20_memory.md R61: a step moves at most one session, the one its input names or the one whose
call is answered; every other session keeps its address and its position. -/
def Obligations.OtherSessionsKeepStill : Prop :=
  ∀ (s t : State) (j : Nat) (x : Session), step s = .next t → s.sessions[j]? = some x → t.sessions[j]? ≠ some x →
    (∃ op rest, s.events = .invoke j op :: rest) ∨ (∃ rest, s.events = .resume j :: rest) ∨
    (∃ rest, s.events = .cancel j :: rest) ∨
    (∃ c r rest, s.link = some { session := j, call := c } ∧ s.events = .reply r :: rest)

/-- 70_reset_and_hazards.md R182, 42_host_sequences.md R151: a session made later is idle at UNIT_ID_INIT; the sessions
already there stay as they are, and nothing else changes. That every new session starts at the one open parameter is the
model's choice (notes/assumptions/5). -/
def Obligations.NewSessionStartsIdle : Prop :=
  ∀ s : State, ∃ (t : State) (u : Byte), step (s.feed [.openSession]) = .next t ∧
    u.toNat = Config.unitIdInit.val ∧ t.At s.sessions.length u .idle ∧
    t.sessions.length = s.sessions.length + 1 ∧ (∀ j, j < s.sessions.length → t.sessions[j]? = s.sessions[j]?) ∧
    t = { s with sessions := t.sessions }

/-- 70_reset_and_hazards.md R196, 42_host_sequences.md R150: time never runs back; it passes only by an input that says so,
which may come at any moment, or at the end of the sleep of a wait, which comes no earlier than POLL_PERIOD allows; codec
requests take none. The clock, and that the input moves it by its amount and changes nothing else, are the model's
(notes/assumptions/11). -/
def Obligations.TimePassesByElapseOrAtSleepEnd : Prop :=
  (∀ (s : State) (d : Nat), step (s.feed [.elapse d]) = .next { s with clock := s.clock + d }) ∧
  (∀ s t : State, step s = .next t →
    s.clock ≤ t.clock ∧
    (t.clock ≠ s.clock →
      (∃ d rest, s.events = .elapse d :: rest) ∨
      (∃ k u wait wakeTime rest, s.events = .resume k :: rest ∧ s.At k u (.sleeping wait wakeTime) ∧
        wakeTime ≤ t.clock)))

/-! ### The invariant -/

/-- The state right after the start meets the invariant. -/
def Obligations.ResetMeetsTheInvariant : Prop :=
  State.reset.Inv

/-- Every step keeps the invariant: legal addresses (10_state.md R36), the call outstanding is its session's and no operation is
suspended but at the answer to its call or asleep (42_host_sequences.md R150), every call ever issued is in the register map
(20_memory.md R52, R57), the control registers are canonical and only named ones of legal devices are listed
(20_memory.md R68, 93_implementation_defined.md U4, U5). -/
def Obligations.StepKeepsTheInvariant : Prop :=
  ∀ s t : State, s.Inv → step s = .next t → t.Inv

/-- 70_reset_and_hazards.md R180, R181, R182, 10_state.md R48: at the start there is one session, idle, at a legal address;
nothing was issued or returned, nothing is outstanding; every control register of every device holds an unspecified word,
not assumed zero. That there is one session is the model's choice (notes/assumptions/5), and so are that the records of
responses and results are empty (notes/assumptions/3) and that the unspecified word is a free value (notes/assumptions/6). -/
def Obligations.StartState : Prop :=
  ∃ u : Byte, u.toNat = Config.unitIdInit.val ∧ u.toNat ≤ 247 ∧ State.reset.At 0 u .idle ∧
    State.reset.sessions.length = 1 ∧ State.reset.link = none ∧ State.reset.trace = [] ∧
    State.reset.responses = [] ∧ State.reset.results = [] ∧
    (∀ (v : Byte) (a : Word), State.reset.controlWord v a = Config.deviceResetWord v a)
end

