-- ==== Sys2Proof/Laws/Bits.lean ====
section
/-! SUPPORT. The bit fields of the codec as numbers. -/

namespace Sys2Proof.Machine

open Sys2Proof

theorem lowByte_toNat (w : Word) : (lowByte w).toNat = w.toNat % 256 := by
  simp only [lowByte, BitVec.toNat_setWidth, BitVec.toNat_and, BitVec.toNat_ofNat]
  have := Nat.and_two_pow_sub_one_eq_mod w.toNat 8
  norm_num at this ⊢
  rw [this]
  omega

theorem highByte_toNat (w : Word) : (highByte w).toNat = w.toNat / 256 := by
  have hw := w.isLt
  simp only [highByte, BitVec.toNat_setWidth, BitVec.toNat_and, BitVec.toNat_ofNat, BitVec.toNat_ushiftRight]
  have := Nat.and_two_pow_sub_one_eq_mod (w.toNat >>> 8) 8
  norm_num [Nat.shiftRight_eq_div_pow] at this ⊢
  rw [this]
  omega

theorem shiftToHighByte_toNat (w : Word) : (shiftToHighByte w).toNat = w.toNat * 256 % 65536 := by
  simp [shiftToHighByte, Nat.shiftLeft_eq]

/-- The OR of a pair never has two ones in one place, so it is a sum (40_command_encoder.md R106). -/
theorem packPair_toNat (first second : Byte) : (packPair first second).toNat = first.toNat + 256 * second.toNat := by
  have ha := first.isLt
  have hb := second.isLt
  have : (packPair first second).toNat = first.toNat ||| (second.toNat <<< 8) := by
    simp only [packPair, zext16, BitVec.toNat_or, shiftToHighByte_toNat, BitVec.toNat_setWidth, Nat.shiftLeft_eq]
    congr 1 <;> omega
  rw [this, Nat.or_comm, ← Nat.shiftLeft_add_eq_or_of_lt ha, Nat.shiftLeft_eq]
  omega

theorem append_bytes_toNat (low high : Byte) : (high ++ low).toNat = low.toNat + 256 * high.toNat := by
  rw [BitVec.toNat_append, ← Nat.shiftLeft_add_eq_or_of_lt low.isLt, Nat.shiftLeft_eq]
  omega

/-- A pair is the second byte over the first. -/
theorem packPair_eq_append (first second : Byte) : packPair first second = second ++ first :=
  BitVec.eq_of_toNat_eq ((packPair_toNat first second).trans (append_bytes_toNat first second).symm)

/-- A 2-bit field is two bits of the word. -/
theorem twoBitField_eq_extract (w : Word) (n : Nat) : twoBitField w n = w.extractLsb' n 2 := by
  ext i hi
  simp only [twoBitField, BitVec.getElem_setWidth, BitVec.getElem_extractLsb']
  interval_cases i <;> simp

theorem joinBytes_toNat (high low : Byte) : (joinBytes high low).toNat = high.toNat * 256 + low.toNat := by
  have := high.isLt
  have := low.isLt
  simp only [joinBytes, BitVec.toNat_ofNat]
  omega

@[simp] theorem joinBytes_parts (w : Word) : joinBytes (highPart w) (lowPart w) = w := by
  apply BitVec.eq_of_toNat_eq
  have := w.isLt
  simp only [joinBytes_toNat, highPart, lowPart, BitVec.toNat_ofNat]
  omega

@[simp] theorem lowPart_joinBytes (high low : Byte) : lowPart (joinBytes high low) = low := by
  apply BitVec.eq_of_toNat_eq
  simp only [lowPart, joinBytes_toNat, BitVec.toNat_ofNat]
  omega

@[simp] theorem highPart_joinBytes (high low : Byte) : highPart (joinBytes high low) = high := by
  apply BitVec.eq_of_toNat_eq
  simp only [highPart, joinBytes_toNat, BitVec.toNat_ofNat]
  omega

end Sys2Proof.Machine
end

