-- ==== Sys2Proof/Laws/State.lean ====
section
/-! SUPPORT. One lemma per field per update of the state, so that no proof unfolds a record update. -/

namespace Sys2Proof.Machine

open Sys2Proof

/-! ### `State.feed` -/

@[simp] theorem State.feed_events (s : State) (es : List Event) :
    (s.feed es).events = es ++ s.events := rfl
@[simp] theorem State.feed_responses (s : State) (es : List Event) :
    (s.feed es).responses = s.responses := rfl
@[simp] theorem State.feed_sessions (s : State) (es : List Event) :
    (s.feed es).sessions = s.sessions := rfl
@[simp] theorem State.feed_link (s : State) (es : List Event) :
    (s.feed es).link = s.link := rfl
@[simp] theorem State.feed_trace (s : State) (es : List Event) :
    (s.feed es).trace = s.trace := rfl
@[simp] theorem State.feed_results (s : State) (es : List Event) :
    (s.feed es).results = s.results := rfl
@[simp] theorem State.feed_control (s : State) (es : List Event) :
    (s.feed es).control = s.control := rfl
@[simp] theorem State.feed_clock (s : State) (es : List Event) :
    (s.feed es).clock = s.clock := rfl

/-! ### `State.deliver` -/

@[simp] theorem State.deliver_events (s : State) (r : Response) :
    (s.deliver r).events = s.events := rfl
@[simp] theorem State.deliver_responses (s : State) (r : Response) :
    (s.deliver r).responses = s.responses ++ [r] := rfl
@[simp] theorem State.deliver_sessions (s : State) (r : Response) :
    (s.deliver r).sessions = s.sessions := rfl
@[simp] theorem State.deliver_link (s : State) (r : Response) :
    (s.deliver r).link = s.link := rfl
@[simp] theorem State.deliver_trace (s : State) (r : Response) :
    (s.deliver r).trace = s.trace := rfl
@[simp] theorem State.deliver_results (s : State) (r : Response) :
    (s.deliver r).results = s.results := rfl
@[simp] theorem State.deliver_control (s : State) (r : Response) :
    (s.deliver r).control = s.control := rfl
@[simp] theorem State.deliver_clock (s : State) (r : Response) :
    (s.deliver r).clock = s.clock := rfl

/-! ### `State.setActivity` -/

@[simp] theorem State.setActivity_events (s : State) (k : Nat) (a : Activity) :
    (s.setActivity k a).events = s.events := rfl
@[simp] theorem State.setActivity_responses (s : State) (k : Nat) (a : Activity) :
    (s.setActivity k a).responses = s.responses := rfl
@[simp] theorem State.setActivity_sessions (s : State) (k : Nat) (a : Activity) :
    (s.setActivity k a).sessions = s.sessions.modify k fun x => { x with activity := a } := rfl
@[simp] theorem State.setActivity_link (s : State) (k : Nat) (a : Activity) :
    (s.setActivity k a).link = s.link := rfl
@[simp] theorem State.setActivity_trace (s : State) (k : Nat) (a : Activity) :
    (s.setActivity k a).trace = s.trace := rfl
@[simp] theorem State.setActivity_results (s : State) (k : Nat) (a : Activity) :
    (s.setActivity k a).results = s.results := rfl
@[simp] theorem State.setActivity_control (s : State) (k : Nat) (a : Activity) :
    (s.setActivity k a).control = s.control := rfl
@[simp] theorem State.setActivity_clock (s : State) (k : Nat) (a : Activity) :
    (s.setActivity k a).clock = s.clock := rfl

/-! ### `State.finish` -/

@[simp] theorem State.finish_events (s : State) (k : Nat) (r : Result) :
    (s.finish k r).events = s.events := rfl
@[simp] theorem State.finish_responses (s : State) (k : Nat) (r : Result) :
    (s.finish k r).responses = s.responses := rfl
@[simp] theorem State.finish_sessions (s : State) (k : Nat) (r : Result) :
    (s.finish k r).sessions = (s.setActivity k .idle).sessions := rfl
@[simp] theorem State.finish_link (s : State) (k : Nat) (r : Result) :
    (s.finish k r).link = s.link := rfl
@[simp] theorem State.finish_trace (s : State) (k : Nat) (r : Result) :
    (s.finish k r).trace = s.trace := rfl
@[simp] theorem State.finish_results (s : State) (k : Nat) (r : Result) :
    (s.finish k r).results = s.results ++ [(k, r)] := rfl
@[simp] theorem State.finish_control (s : State) (k : Nat) (r : Result) :
    (s.finish k r).control = s.control := rfl
@[simp] theorem State.finish_clock (s : State) (k : Nat) (r : Result) :
    (s.finish k r).clock = s.clock := rfl

/-! ### `State.raise` -/

@[simp] theorem State.raise_events (s : State) (k : Nat) (e : HostError) :
    (s.raise k e).events = s.events := rfl
@[simp] theorem State.raise_responses (s : State) (k : Nat) (e : HostError) :
    (s.raise k e).responses = s.responses := rfl
@[simp] theorem State.raise_sessions (s : State) (k : Nat) (e : HostError) :
    (s.raise k e).sessions = (s.setActivity k .idle).sessions := rfl
@[simp] theorem State.raise_link (s : State) (k : Nat) (e : HostError) :
    (s.raise k e).link = s.link := rfl
@[simp] theorem State.raise_trace (s : State) (k : Nat) (e : HostError) :
    (s.raise k e).trace = s.trace := rfl
@[simp] theorem State.raise_results (s : State) (k : Nat) (e : HostError) :
    (s.raise k e).results = s.results ++ [(k, .error e)] := rfl
@[simp] theorem State.raise_control (s : State) (k : Nat) (e : HostError) :
    (s.raise k e).control = s.control := rfl
@[simp] theorem State.raise_clock (s : State) (k : Nat) (e : HostError) :
    (s.raise k e).clock = s.clock := rfl

/-! ### `State.issue` -/

@[simp] theorem State.issue_events (s : State) (k : Nat) (c : Call) :
    (s.issue k c).events = s.events := rfl
@[simp] theorem State.issue_responses (s : State) (k : Nat) (c : Call) :
    (s.issue k c).responses = s.responses := rfl
@[simp] theorem State.issue_sessions (s : State) (k : Nat) (c : Call) :
    (s.issue k c).sessions = s.sessions := rfl
@[simp] theorem State.issue_link (s : State) (k : Nat) (c : Call) :
    (s.issue k c).link = some { session := k, call := c } := rfl
@[simp] theorem State.issue_trace (s : State) (k : Nat) (c : Call) :
    (s.issue k c).trace = s.trace ++ [c] := rfl
@[simp] theorem State.issue_results (s : State) (k : Nat) (c : Call) :
    (s.issue k c).results = s.results := rfl
@[simp] theorem State.issue_control (s : State) (k : Nat) (c : Call) :
    (s.issue k c).control = s.control := rfl
@[simp] theorem State.issue_clock (s : State) (k : Nat) (c : Call) :
    (s.issue k c).clock = s.clock := rfl

/-! ### `State.await`, and the three ways a session comes to await -/

@[simp] theorem State.await_events (s : State) (k : Nat) (a : Activity) (c : Call) :
    (s.await k a c).events = s.events := rfl
@[simp] theorem State.await_responses (s : State) (k : Nat) (a : Activity) (c : Call) :
    (s.await k a c).responses = s.responses := rfl
@[simp] theorem State.await_results (s : State) (k : Nat) (a : Activity) (c : Call) :
    (s.await k a c).results = s.results := rfl
@[simp] theorem State.await_control (s : State) (k : Nat) (a : Activity) (c : Call) :
    (s.await k a c).control = s.control := rfl
@[simp] theorem State.await_clock (s : State) (k : Nat) (a : Activity) (c : Call) :
    (s.await k a c).clock = s.clock := rfl
@[simp] theorem State.await_sessions (s : State) (k : Nat) (a : Activity) (c : Call) :
    (s.await k a c).sessions = (s.setActivity k a).sessions := rfl
@[simp] theorem State.await_link (s : State) (k : Nat) (a : Activity) (c : Call) :
    (s.await k a c).link = some { session := k, call := c } := rfl
@[simp] theorem State.await_trace (s : State) (k : Nat) (a : Activity) (c : Call) :
    (s.await k a c).trace = s.trace ++ [c] := rfl

@[simp] theorem State.startWrite_eq (s : State) (k : Nat) (u : Byte) (now : ControlWrite) (later : List ControlWrite) :
    s.startWrite k u now later = s.await k (.writing now later) (writeCall u now) := rfl
@[simp] theorem State.startRead_eq (s : State) (k : Nat) (u : Byte) (register : StatusRegister) :
    s.startRead k u register = s.await k (.reading register) (readCall u register) := rfl
@[simp] theorem State.poll_eq (s : State) (k : Nat) (u : Byte) (wait : Wait) :
    s.poll k u wait = s.await k (.polling wait) (readCall u .status) := rfl

/-! ### `State.freeLink` -/

@[simp] theorem State.freeLink_events (s : State) :
    s.freeLink.events = s.events := rfl
@[simp] theorem State.freeLink_responses (s : State) :
    s.freeLink.responses = s.responses := rfl
@[simp] theorem State.freeLink_sessions (s : State) :
    s.freeLink.sessions = s.sessions := rfl
@[simp] theorem State.freeLink_trace (s : State) :
    s.freeLink.trace = s.trace := rfl
@[simp] theorem State.freeLink_results (s : State) :
    s.freeLink.results = s.results := rfl
@[simp] theorem State.freeLink_control (s : State) :
    s.freeLink.control = s.control := rfl
@[simp] theorem State.freeLink_clock (s : State) :
    s.freeLink.clock = s.clock := rfl
@[simp] theorem State.freeLink_link (s : State) :
    s.freeLink.link = none := rfl

/-! ### `State.sleep` -/

@[simp] theorem State.sleep_events (s : State) (k : Nat) (w : Wait) :
    (s.sleep k w).events = s.events := rfl
@[simp] theorem State.sleep_responses (s : State) (k : Nat) (w : Wait) :
    (s.sleep k w).responses = s.responses := rfl
@[simp] theorem State.sleep_sessions (s : State) (k : Nat) (w : Wait) :
    (s.sleep k w).sessions = (s.setActivity k (.sleeping w (s.clock + Config.pollPeriod))).sessions := rfl
@[simp] theorem State.sleep_link (s : State) (k : Nat) (w : Wait) :
    (s.sleep k w).link = s.link := rfl
@[simp] theorem State.sleep_trace (s : State) (k : Nat) (w : Wait) :
    (s.sleep k w).trace = s.trace := rfl
@[simp] theorem State.sleep_results (s : State) (k : Nat) (w : Wait) :
    (s.sleep k w).results = s.results := rfl
@[simp] theorem State.sleep_control (s : State) (k : Nat) (w : Wait) :
    (s.sleep k w).control = s.control := rfl
@[simp] theorem State.sleep_clock (s : State) (k : Nat) (w : Wait) :
    (s.sleep k w).clock = s.clock := rfl

/-! ### `State.wake` -/

@[simp] theorem State.wake_events (s : State) (n : Nat) :
    (s.wake n).events = s.events := rfl
@[simp] theorem State.wake_responses (s : State) (n : Nat) :
    (s.wake n).responses = s.responses := rfl
@[simp] theorem State.wake_sessions (s : State) (n : Nat) :
    (s.wake n).sessions = s.sessions := rfl
@[simp] theorem State.wake_link (s : State) (n : Nat) :
    (s.wake n).link = s.link := rfl
@[simp] theorem State.wake_trace (s : State) (n : Nat) :
    (s.wake n).trace = s.trace := rfl
@[simp] theorem State.wake_results (s : State) (n : Nat) :
    (s.wake n).results = s.results := rfl
@[simp] theorem State.wake_control (s : State) (n : Nat) :
    (s.wake n).control = s.control := rfl
@[simp] theorem State.wake_clock (s : State) (n : Nat) :
    (s.wake n).clock = max s.clock n := rfl

/-! ### `State.openSession` -/

@[simp] theorem State.openSession_events (s : State) :
    (s.openSession).events = s.events := rfl
@[simp] theorem State.openSession_responses (s : State) :
    (s.openSession).responses = s.responses := rfl
@[simp] theorem State.openSession_sessions (s : State) :
    (s.openSession).sessions = s.sessions ++ [Session.fresh] := rfl
@[simp] theorem State.openSession_link (s : State) :
    (s.openSession).link = s.link := rfl
@[simp] theorem State.openSession_trace (s : State) :
    (s.openSession).trace = s.trace := rfl
@[simp] theorem State.openSession_results (s : State) :
    (s.openSession).results = s.results := rfl
@[simp] theorem State.openSession_control (s : State) :
    (s.openSession).control = s.control := rfl
@[simp] theorem State.openSession_clock (s : State) :
    (s.openSession).clock = s.clock := rfl

/-! ### `State.elapse` -/

@[simp] theorem State.elapse_events (s : State) (d : Nat) :
    (s.elapse d).events = s.events := rfl
@[simp] theorem State.elapse_responses (s : State) (d : Nat) :
    (s.elapse d).responses = s.responses := rfl
@[simp] theorem State.elapse_sessions (s : State) (d : Nat) :
    (s.elapse d).sessions = s.sessions := rfl
@[simp] theorem State.elapse_link (s : State) (d : Nat) :
    (s.elapse d).link = s.link := rfl
@[simp] theorem State.elapse_trace (s : State) (d : Nat) :
    (s.elapse d).trace = s.trace := rfl
@[simp] theorem State.elapse_results (s : State) (d : Nat) :
    (s.elapse d).results = s.results := rfl
@[simp] theorem State.elapse_control (s : State) (d : Nat) :
    (s.elapse d).control = s.control := rfl
@[simp] theorem State.elapse_clock (s : State) (d : Nat) :
    (s.elapse d).clock = s.clock + d := rfl

/-! ### `State.deviceChange` -/

@[simp] theorem State.deviceChange_events (s : State) (c : DeviceChange) :
    (s.deviceChange c).events = s.events := rfl
@[simp] theorem State.deviceChange_responses (s : State) (c : DeviceChange) :
    (s.deviceChange c).responses = s.responses := rfl
@[simp] theorem State.deviceChange_sessions (s : State) (c : DeviceChange) :
    (s.deviceChange c).sessions = s.sessions := rfl
@[simp] theorem State.deviceChange_link (s : State) (c : DeviceChange) :
    (s.deviceChange c).link = s.link := rfl
@[simp] theorem State.deviceChange_trace (s : State) (c : DeviceChange) :
    (s.deviceChange c).trace = s.trace := rfl
@[simp] theorem State.deviceChange_results (s : State) (c : DeviceChange) :
    (s.deviceChange c).results = s.results := rfl
@[simp] theorem State.deviceChange_control (s : State) (c : DeviceChange) :
    (s.deviceChange c).control =
      Memory.write s.control (controlKey (BitVec.ofNat 8 c.unit.val) c.register.address) c.word := rfl
@[simp] theorem State.deviceChange_clock (s : State) (c : DeviceChange) :
    (s.deviceChange c).clock = s.clock := rfl

/-- Any number of changes by devices changes the control registers alone, and those by what they were alone. -/
theorem State.deviceChanges_eq (s : State) (cs : List DeviceChange) :
    s.deviceChanges cs = { s with control := (s.deviceChanges cs).control } := by
  induction cs generalizing s with
  | nil => rfl
  | cons c cs ih => exact (ih _).trans rfl

@[simp] theorem State.deviceChanges_events (s : State) (cs : List DeviceChange) :
    (s.deviceChanges cs).events = s.events := by rw [State.deviceChanges_eq]
@[simp] theorem State.deviceChanges_responses (s : State) (cs : List DeviceChange) :
    (s.deviceChanges cs).responses = s.responses := by rw [State.deviceChanges_eq]
@[simp] theorem State.deviceChanges_sessions (s : State) (cs : List DeviceChange) :
    (s.deviceChanges cs).sessions = s.sessions := by rw [State.deviceChanges_eq]
@[simp] theorem State.deviceChanges_link (s : State) (cs : List DeviceChange) :
    (s.deviceChanges cs).link = s.link := by rw [State.deviceChanges_eq]
@[simp] theorem State.deviceChanges_trace (s : State) (cs : List DeviceChange) :
    (s.deviceChanges cs).trace = s.trace := by rw [State.deviceChanges_eq]
@[simp] theorem State.deviceChanges_results (s : State) (cs : List DeviceChange) :
    (s.deviceChanges cs).results = s.results := by rw [State.deviceChanges_eq]
@[simp] theorem State.deviceChanges_clock (s : State) (cs : List DeviceChange) :
    (s.deviceChanges cs).clock = s.clock := by rw [State.deviceChanges_eq]

theorem State.deviceChanges_control_congr {s t : State} (h : s.control = t.control) (cs : List DeviceChange) :
    (s.deviceChanges cs).control = (t.deviceChanges cs).control := by
  induction cs generalizing s t with
  | nil => exact h
  | cons c cs ih => exact ih (by simp [h])

/-! ### `State.land` -/

@[simp] theorem State.land_events (s : State) (c : Call) :
    (s.land c).events = s.events := by cases c <;> rfl
@[simp] theorem State.land_responses (s : State) (c : Call) :
    (s.land c).responses = s.responses := by cases c <;> rfl
@[simp] theorem State.land_sessions (s : State) (c : Call) :
    (s.land c).sessions = s.sessions := by cases c <;> rfl
@[simp] theorem State.land_link (s : State) (c : Call) :
    (s.land c).link = s.link := by cases c <;> rfl
@[simp] theorem State.land_trace (s : State) (c : Call) :
    (s.land c).trace = s.trace := by cases c <;> rfl
@[simp] theorem State.land_results (s : State) (c : Call) :
    (s.land c).results = s.results := by cases c <;> rfl
@[simp] theorem State.land_clock (s : State) (c : Call) :
    (s.land c).clock = s.clock := by cases c <;> rfl

@[simp] theorem State.land_readInput (s : State) (u : Byte) (a : Word) (n : Nat) :
    s.land (.readInput u a n) = s := rfl
@[simp] theorem State.land_writeRegs_control (s : State) (u : Byte) (a : Word) (ws : List Word) :
    (s.land (.writeRegs u a ws)).control = Memory.writeRun s.control (controlKey u a) ws := rfl

/-! ### Inputs ahead -/

@[simp] theorem State.feed_nil (s : State) : s.feed [] = s := rfl

@[simp] theorem run_zero (s : State) : run 0 s = .next s := rfl

/-- A run's first step. -/
theorem run_succ (n : Nat) (s : State) :
    run (n + 1) s = match step s with
      | .next t => run n t
      | .fault f => .fault f
      | .refused r => .refused r := rfl

/-- A run goes on from the state its first step answers. -/
theorem run_succ_of_next {n : Nat} {s t : State} (h : step s = .next t) : run (n + 1) s = run n t := by
  rw [run_succ, h]

/-- A run of `n + 1` steps that answers a state passes through the state of its first step. -/
theorem run_succ_eq_next {n : Nat} {s t : State} (h : run (n + 1) s = .next t) :
    ∃ m, step s = .next m ∧ run n m = .next t := by
  rw [run_succ] at h
  split at h
  · exact ⟨_, ‹_›, h⟩
  · cases h
  · cases h

end Sys2Proof.Machine
end

