-- ==== Sys2Proof/Laws/Memory.lean ====
section
/-! SUPPORT. The control registers of the devices: read after write, the canonical form every operation keeps, and the keys. -/

namespace Sys2Proof.Machine

open Sys2Proof

/-! ### Reading after writing -/

@[simp] theorem Memory.read_write_same (m : Memory) (key : Nat) (w : Word) :
    Memory.read (Memory.write m key w) key = some w := by
  induction m with
  | nil => simp [Memory.write, Memory.read]
  | cons c rest ih =>
    obtain ⟨k, v⟩ := c
    simp only [Memory.write]
    split
    · simp [Memory.read]
    · split
      · simp [Memory.read, *]
      · have : k ≠ key := fun h => by simp_all
        simp [Memory.read, this, ih]

theorem Memory.read_write_other {m : Memory} {key other : Nat} (w : Word) (h : other ≠ key) :
    Memory.read (Memory.write m key w) other = Memory.read m other := by
  induction m with
  | nil => simp [Memory.write, Memory.read, Ne.symm h]
  | cons c rest ih =>
    obtain ⟨k, v⟩ := c
    simp only [Memory.write]
    split
    · simp [Memory.read, Ne.symm h]
    · split
      · subst_vars
        simp [Memory.read, Ne.symm h]
      · simp [Memory.read, ih]

/-- A run of words changes only the keys it covers. -/
theorem Memory.read_writeRun_other {ws : List Word} {m : Memory} {key other : Nat}
    (h : ∀ i, i < ws.length → other ≠ key + i) :
    Memory.read (Memory.writeRun m key ws) other = Memory.read m other := by
  induction ws generalizing m key with
  | nil => rfl
  | cons w ws ih =>
    simp only [Memory.writeRun]
    rw [ih, Memory.read_write_other w (by simpa using h 0 (by simp))]
    intro i hi
    have := h (i + 1) (by simpa using hi)
    omega

/-! ### The canonical form -/

/-- Where a canonical list starts, every later key is larger. -/
theorem Memory.wf_cons_cons {k l : Nat} {v u : Word} {rest : Memory} :
    Memory.wf ((k, v) :: (l, u) :: rest) = true ↔ k < l ∧ Memory.wf ((l, u) :: rest) = true := by
  simp [Memory.wf]

theorem Memory.wf_tail {c : Nat × Word} {rest : Memory} (h : Memory.wf (c :: rest) = true) :
    Memory.wf rest = true := by
  cases rest with
  | nil => rfl
  | cons d rest => exact (Memory.wf_cons_cons.mp h).2

/-- A cell may stand before a canonical list whose first key is larger. -/
theorem Memory.wf_cons {k : Nat} {v : Word} {m : Memory} (hm : Memory.wf m = true)
    (hk : ∀ c ∈ m.head?, k < c.1) : Memory.wf ((k, v) :: m) = true := by
  cases m with
  | nil => rfl
  | cons d rest => exact Memory.wf_cons_cons.mpr ⟨hk d rfl, hm⟩

/-- A write puts its own key or the old first key in front. -/
theorem Memory.head?_write {m : Memory} {key : Nat} {w : Word} {c : Nat × Word}
    (h : c ∈ (Memory.write m key w).head?) : c.1 = key ∨ ∃ d ∈ m.head?, c.1 = d.1 := by
  cases m with
  | nil => simp [Memory.write] at h; simp [← h]
  | cons d rest =>
    obtain ⟨k, v⟩ := d
    simp only [Memory.write] at h
    split at h
    · simp at h; simp [← h]
    · split at h <;> (simp at h; right; exact ⟨_, rfl, by simp [← h]⟩)

/-- Writing keeps the canonical form. -/
theorem Memory.wf_write {m : Memory} (h : Memory.wf m = true) (key : Nat) (w : Word) :
    Memory.wf (Memory.write m key w) = true := by
  induction m with
  | nil => rfl
  | cons c rest ih =>
    obtain ⟨k, v⟩ := c
    simp only [Memory.write]
    split
    · exact Memory.wf_cons_cons.mpr ⟨‹_›, h⟩
    · split
      · cases rest with
        | nil => rfl
        | cons d rest => exact Memory.wf_cons_cons.mpr (Memory.wf_cons_cons.mp h)
      · refine Memory.wf_cons (ih (Memory.wf_tail h)) fun d hd => ?_
        rcases Memory.head?_write hd with hd | ⟨e, he, hd⟩
        · omega
        · cases rest with
          | nil => simp at he
          | cons e' rest =>
            simp at he
            subst he
            have := (Memory.wf_cons_cons.mp h).1
            omega

/-- Writing a run of words keeps the canonical form. -/
theorem Memory.wf_writeRun {ws : List Word} {m : Memory} (h : Memory.wf m = true) (key : Nat) :
    Memory.wf (Memory.writeRun m key ws) = true := by
  induction ws generalizing m key with
  | nil => exact h
  | cons w ws ih => exact ih (Memory.wf_write h key w) _

/-- A call that reaches its device keeps the canonical form. -/
theorem State.land_wf {s : State} (h : Memory.wf s.control = true) (c : Call) :
    Memory.wf (s.land c).control = true := by
  cases c with
  | readInput => exact h
  | writeRegs u a ws => exact Memory.wf_writeRun h _

/-- A change by a device keeps the canonical form. -/
theorem State.deviceChange_wf {s : State} (h : Memory.wf s.control = true) (c : DeviceChange) :
    Memory.wf (s.deviceChange c).control = true :=
  Memory.wf_write h _ _

theorem reset_control_wf : Memory.wf State.reset.control = true := rfl

/-- The cells after a write: the new one, or one that was there. -/
theorem Memory.mem_write {m : Memory} {key : Nat} {w : Word} {c : Nat × Word}
    (h : c ∈ Memory.write m key w) : c = (key, w) ∨ c ∈ m := by
  induction m with
  | nil => simpa [Memory.write] using h
  | cons d rest ih =>
    obtain ⟨k, v⟩ := d
    simp only [Memory.write] at h
    split at h
    · simpa using h
    · split at h
      · rcases List.mem_cons.mp h with h | h
        · left; simp_all
        · right; simp [h]
      · rcases List.mem_cons.mp h with h | h
        · right; simp [h]
        · rcases ih h with h | h
          · exact .inl h
          · right; simp [h]

/-! ### Keys -/

/-- Two control registers never share an address: the last one's fits in 16 bits (00_scope.md R7). -/
theorem ControlRegister.address_ne {r r' : ControlRegister} (h : r ≠ r') : r.address ≠ r'.address := by
  intro ha
  have := congrArg BitVec.toNat ha
  have := Config.controlBase.isLt
  cases r <;> cases r' <;> simp [ControlRegister.address, ControlRegister.offset] at * <;> omega

/-- Two devices, or two addresses, never share a key. -/
theorem controlKey_inj {u v : Byte} {a b : Word} : controlKey u a = controlKey v b ↔ u = v ∧ a = b := by
  constructor
  · intro h
    have ha := a.isLt
    have hb := b.isLt
    simp only [controlKey] at h
    exact ⟨BitVec.eq_of_toNat_eq (by omega), BitVec.eq_of_toNat_eq (by omega)⟩
  · rintro ⟨rfl, rfl⟩
    rfl

/-- What the control registers hold once a device has changed one of them. -/
theorem State.controlWord_deviceChange (s : State) (c : DeviceChange) (v : Byte) (b : Word) :
    (s.deviceChange c).controlWord v b =
      if v.toNat = c.unit.val ∧ b = c.register.address then c.word else s.controlWord v b := by
  have hu : v = BitVec.ofNat 8 c.unit.val ↔ v.toNat = c.unit.val := by
    have := c.unit.isLt
    rw [← BitVec.toNat_inj, BitVec.toNat_ofNat, Nat.mod_eq_of_lt (by omega)]
  simp only [State.controlWord, State.deviceChange, ← hu]
  split
  · next h => obtain ⟨rfl, rfl⟩ := h; simp
  · next h =>
    rw [Memory.read_write_other c.word]
    exact fun hk => h (controlKey_inj.mp hk)

/-- What the control registers hold once a one-word write has landed. -/
theorem State.controlWord_land_single (s : State) (u v : Byte) (a b : Word) (w : Word) :
    (s.land (.writeRegs u a [w])).controlWord v b = if v = u ∧ b = a then w else s.controlWord v b := by
  simp only [State.controlWord, State.land, Memory.writeRun]
  split
  · next h => obtain ⟨rfl, rfl⟩ := h; simp
  · next h =>
    rw [Memory.read_write_other w]
    exact fun hk => h (controlKey_inj.mp hk)

end Sys2Proof.Machine
end

