-- ==== Sys2Proof/Laws/PerInstr.lean ====
section
/-! SUPPORT. Facts of every instruction as syntax, one lemma per constructor. -/

namespace Sys2Proof.Laws.QuietRequest

open Sys2Proof

/-- The encoder presents an instruction on its own ports alone, under its own code, in seven bytes. -/
def Statement (i : Instr) : Prop :=
  (encodeRequest i).canonical = true ∧ (encodeRequest i).op = opcode i ∧ (encode i).length = requestBytes

theorem encControl (cmd : ControlCommand) : Statement (.encControl cmd) :=
  ⟨by simp [encodeRequest, opcode, Request.quiet, Request.canonical], rfl, rfl⟩

theorem encPosition (position : Word) : Statement (.encPosition position) :=
  ⟨by simp [encodeRequest, opcode, Request.quiet, Request.canonical, Request.command, ControlCommand.allFalse], rfl, rfl⟩

theorem encSpeedForce (speed force : Byte) : Statement (.encSpeedForce speed force) :=
  ⟨by simp [encodeRequest, opcode, Request.quiet, Request.canonical, Request.command, ControlCommand.allFalse], rfl, rfl⟩

theorem decStatus (word : Word) : Statement (.decStatus word) :=
  ⟨by simp [encodeRequest, opcode, Request.quiet, Request.canonical, Request.command, ControlCommand.allFalse], rfl, rfl⟩

theorem decFault (word : Word) : Statement (.decFault word) :=
  ⟨by simp [encodeRequest, opcode, Request.quiet, Request.canonical, Request.command, ControlCommand.allFalse], rfl, rfl⟩

theorem decFaultPosition (word : Word) : Statement (.decFaultPosition word) :=
  ⟨by simp [encodeRequest, opcode, Request.quiet, Request.canonical, Request.command, ControlCommand.allFalse], rfl, rfl⟩

theorem decSpeedForce (word : Word) : Statement (.decSpeedForce word) :=
  ⟨by simp [encodeRequest, opcode, Request.quiet, Request.canonical, Request.command, ControlCommand.allFalse], rfl, rfl⟩

theorem decVoltageTemperature (word : Word) : Statement (.decVoltageTemperature word) :=
  ⟨by simp [encodeRequest, opcode, Request.quiet, Request.canonical, Request.command, ControlCommand.allFalse], rfl, rfl⟩

end Sys2Proof.Laws.QuietRequest
end

