-- ==== Sys2Proof/Laws/Session.lean ====
section
/-! SUPPORT. Where sessions stand after an update, and what the operations of the session and of the transport can do: one
inversion lemma for each, which proofs cite in place of unfolding it. -/

namespace Sys2Proof.Machine

open Sys2Proof

/-! ### Positions -/

/-- The session whose position is set stands there. -/
theorem State.At.setActivity {s : State} {k : Nat} {u : Byte} {a : Activity} (h : s.At k u a) (b : Activity) :
    (s.setActivity k b).At k u b := by
  simp only [State.At] at h
  simp [State.At, h]

/-- A session that ends its operation is idle. -/
theorem State.At.finish {s : State} {k : Nat} {u : Byte} {a : Activity} (h : s.At k u a) (r : Result) :
    (s.finish k r).At k u .idle :=
  h.setActivity .idle

/-- A session that falls asleep sleeps POLL_PERIOD from now. -/
theorem State.At.sleep {s : State} {k : Nat} {u : Byte} {a : Activity} (h : s.At k u a) (wait : Wait) :
    (s.sleep k wait).At k u (.sleeping wait (s.clock + Config.pollPeriod)) :=
  h.setActivity _

/-- A session that issues a call awaits its answer. -/
theorem State.At.await {s : State} {k : Nat} {u : Byte} {a : Activity} (h : s.At k u a) (b : Activity) (c : Call) :
    (s.await k b c).At k u b :=
  h.setActivity b

/-- The end of a sleep moves no session. -/
theorem State.At.wake {s : State} {j : Nat} {u : Byte} {a : Activity} (h : s.At j u a) (wakeTime : Nat) :
    (s.wake wakeTime).At j u a := h

/-- A call that goes out, or reaches its device, moves no session. -/
theorem State.At.issue {s : State} {j : Nat} {u : Byte} {a : Activity} (h : s.At j u a) (k : Nat) (c : Call) :
    (s.issue k c).At j u a := h

theorem State.At.freeLink {s : State} {j : Nat} {u : Byte} {a : Activity} (h : s.At j u a) : s.freeLink.At j u a := h

theorem State.At.land {s : State} {j : Nat} {u : Byte} {a : Activity} (h : s.At j u a) (c : Call) :
    (s.land c).At j u a := by
  rw [State.At, State.land_sessions]
  exact h

/-- What devices change moves no session. -/
theorem State.At.deviceChanges {s : State} {j : Nat} {u : Byte} {a : Activity} (h : s.At j u a)
    (cs : List DeviceChange) : (s.deviceChanges cs).At j u a := by
  rw [State.At, State.deviceChanges_sessions]
  exact h

/-- Every other session stands where it stood. -/
theorem State.setActivity_other {s : State} {j k : Nat} (h : j ≠ k) (b : Activity) :
    (s.setActivity k b).sessions[j]? = s.sessions[j]? := by
  simp [Ne.symm h]

/-- Only the last position set counts. -/
@[simp] theorem State.setActivity_setActivity (s : State) (k : Nat) (a b : Activity) :
    (s.setActivity k a).setActivity k b = s.setActivity k b := by
  simp only [State.setActivity, List.modify_modify_eq]
  rfl

/-- The sessions after a position is set depend on the sessions before alone. -/
theorem State.setActivity_sessions_congr {s t : State} (h : s.sessions = t.sessions) (k : Nat) (a : Activity) :
    (s.setActivity k a).sessions = (t.setActivity k a).sessions := by
  simp only [State.setActivity, h]

/-- Of two positions in turn only the last counts, also with calls and landings between them. -/
@[simp] theorem State.await_setActivity_sessions (s : State) (k : Nat) (a b : Activity) (c : Call) :
    ((s.await k a c).setActivity k b).sessions = (s.setActivity k b).sessions := by
  rw [← State.setActivity_setActivity s k a b]
  rfl

/-- Setting the position a session has changes nothing. -/
theorem State.At.setActivity_eq {s : State} {k : Nat} {u : Byte} {a : Activity} (h : s.At k u a) :
    s.setActivity k a = s := by
  have : s.sessions.modify k (fun x => { x with activity := a }) = s.sessions := by
    apply List.ext_getElem?
    intro j
    rw [List.getElem?_modify]
    by_cases hj : k = j
    · subst hj
      simp only [State.At] at h
      simp [h]
    · simp [hj]
  simp [State.setActivity, this]

/-- A session that was idle and is idle again leaves the sessions as they were. -/
theorem State.At.idle_again {s : State} {k : Nat} {u : Byte} (h : s.At k u .idle) (a : Activity) :
    ((s.setActivity k a).setActivity k .idle).sessions = s.sessions := by
  rw [State.setActivity_setActivity, h.setActivity_eq]

/-- A session known by its place has an address and a position. -/
theorem State.at_of_getElem? {s : State} {k : Nat} {x : Session} (h : s.sessions[k]? = some x) :
    s.At k x.unitId x.activity := h

/-- A place holds one session. -/
theorem State.At.unique {s : State} {k : Nat} {u v : Byte} {a b : Activity} (h : s.At k u a) (h' : s.At k v b) :
    u = v ∧ a = b := by
  have := Option.some.inj (h.symm.trans h')
  simpa using this

/-! ### What each operation can do -/

/-- Starting an operation: the session exists and is idle, and the link is free. -/
theorem invoke_next {k : Nat} {op : SessionOp} {s t : State} (h : invoke k op s = .next t) :
    ∃ u, s.At k u .idle ∧ s.link = none ∧ t = s.begin k u op := by
  simp only [invoke] at h
  split at h
  · cases h
  · next x hx =>
    split at h
    · cases h
    · next hi =>
      split at h
      · cases h
      · next hl =>
        have hi := not_not.mp hi
        exact ⟨x.unitId, by rw [State.At, hx, ← hi], by simpa using hl, by simpa using h.symm⟩

/-- An idle session starts any operation on a free link. -/
theorem invoke_of_idle {k : Nat} {s : State} {u : Byte} (h : s.At k u .idle) (op : SessionOp) (hl : s.link = none) :
    invoke k op s = .next (s.begin k u op) := by
  simp only [State.At] at h
  simp [invoke, h, hl]

/-- What starting an operation does: the setter returns at once, every other operation issues its first call. -/
theorem State.begin_cases (s : State) (k : Nat) (u : Byte) (op : SessionOp) :
    (∃ a, op = .setDeviceAddress a ∧ s.begin k u op = s.setDeviceAddress k a) ∨
    (∃ a c, Session.awaitedCall { unitId := u, activity := a } = some c ∧ s.begin k u op = s.await k a c) := by
  cases op
  case setDeviceAddress a => exact .inl ⟨a, rfl, rfl⟩
  all_goals exact .inr ⟨_, _, rfl, rfl⟩

/-- Going on: the link is free, and the next poll goes out after a sleep, the next write after an answered one. -/
theorem resume_next {k : Nat} {s t : State} (h : resume k s = .next t) :
    s.link = none ∧ ∃ u,
      ((∃ wait wakeTime, s.At k u (.sleeping wait wakeTime) ∧
          t = (s.wake wakeTime).await k (.polling wait) (readCall u .status)) ∨
       (∃ next later, s.At k u (.answered next later) ∧ t = s.await k (.writing next later) (writeCall u next))) := by
  simp only [resume] at h
  split at h
  · cases h
  · next hl =>
    refine ⟨hl, ?_⟩
    split at h
    · cases h
    · next x hx =>
      split at h
      · cases h
      · cases h
      · next next later ha =>
        exact ⟨x.unitId, .inr ⟨next, later, by rw [State.At, hx, ← ha], by simpa using h.symm⟩⟩
      · cases h
      · cases h
      · next wait wakeTime ha =>
        exact ⟨x.unitId, .inl ⟨wait, wakeTime, by rw [State.At, hx, ← ha], by simpa using h.symm⟩⟩

/-- Going on in one shape for both cases: on a free link the session, which was suspended, issues a call and awaits its answer;
of the rest only the clock can have moved. -/
theorem resume_effect {k : Nat} {s t : State} (h : resume k s = .next t) :
    s.link = none ∧ ∃ (u : Byte) (a b : Activity) (c : Call) (m : State), s.At k u a ∧ a ≠ .idle ∧
      Session.awaitedCall { unitId := u, activity := b } = some c ∧ (m = s ∨ ∃ wakeTime, m = s.wake wakeTime) ∧
      t = m.await k b c := by
  obtain ⟨hl, u, ⟨wait, wakeTime, ha, ht⟩ | ⟨next, later, ha, ht⟩⟩ := resume_next h
  · exact ⟨hl, u, _, _, _, _, ha, by simp, rfl, .inr ⟨wakeTime, rfl⟩, ht⟩
  · exact ⟨hl, u, _, _, _, _, ha, by simp, rfl, .inl rfl, ht⟩

/-- A sleeping session wakes and polls when the link is free. -/
theorem resume_of_sleeping {k : Nat} {s : State} {u : Byte} {wait : Wait} {wakeTime : Nat} (hl : s.link = none)
    (h : s.At k u (.sleeping wait wakeTime)) :
    resume k s = .next ((s.wake wakeTime).await k (.polling wait) (readCall u .status)) := by
  simp only [State.At] at h
  simp [resume, hl, h]

/-- A session whose write is answered sends the next one when the link is free. -/
theorem resume_of_answered {k : Nat} {s : State} {u : Byte} {next : ControlWrite} {later : List ControlWrite}
    (hl : s.link = none) (h : s.At k u (.answered next later)) :
    resume k s = .next (s.await k (.writing next later) (writeCall u next)) := by
  simp only [State.At] at h
  simp [resume, hl, h]

/-- The answer to a call: a call was outstanding, and the waiting session goes on by its position. -/
theorem complete_next {r : Reply} {s t : State} (h : complete r s = .next t) :
    ∃ f x, s.link = some f ∧ s.sessions[f.session]? = some x ∧
      ((∃ now later, x.activity = .writing now later ∧
          t = s.freeLink.afterWrite f.session f.call later r) ∨
       (∃ register, x.activity = .reading register ∧
          t = s.freeLink.afterRead f.session register r) ∨
       (∃ wait, x.activity = .polling wait ∧ t = s.freeLink.afterPoll f.session wait r)) := by
  simp only [complete] at h
  split at h
  · cases h
  · next f hf =>
    split at h
    · cases h
    · next x hx =>
      refine ⟨f, x, hf, hx, ?_⟩
      split at h
      · cases h
      · next ha => exact .inl ⟨_, _, ha, by simpa using h.symm⟩
      · cases h
      · next ha => exact .inr (.inl ⟨_, ha, by simpa using h.symm⟩)
      · next ha => exact .inr (.inr ⟨_, ha, by simpa using h.symm⟩)
      · cases h

/-- The answer to a write. -/
theorem State.afterWrite_cases (s : State) (k : Nat) (c : Call) (later : List ControlWrite) (r : Reply) :
    (∃ ws, r = .ok ws ∧ later = [] ∧ s.afterWrite k c later r = (s.land c).finish k .done) ∨
    (∃ ws next rest, r = .ok ws ∧ later = next :: rest ∧
      s.afterWrite k c later r = (s.land c).setActivity k (.answered next rest)) ∨
    (∃ f, r = .failed f true ∧ s.afterWrite k c later r = (s.land c).raise k (.transportError f)) ∨
    (∃ f, r = .failed f false ∧ s.afterWrite k c later r = s.raise k (.transportError f)) := by
  cases r with
  | ok ws =>
    cases later with
    | nil => exact .inl ⟨ws, rfl, rfl, rfl⟩
    | cons next rest => exact .inr (.inl ⟨ws, next, rest, rfl, rfl, rfl⟩)
  | failed f landed =>
    cases landed with
    | false => exact .inr (.inr (.inr ⟨f, rfl, rfl⟩))
    | true => exact .inr (.inr (.inl ⟨f, rfl, rfl⟩))

/-- The first word of a read: there with exactly the words asked for, else a failure with its cause. -/
theorem Reply.firstWord_cases {n : Nat} (hn : n ≠ 0) (r : Reply) :
    (∃ w ws, r = .ok (w :: ws) ∧ (w :: ws).length = n ∧ r.firstWord n = .ok w) ∨
    (∃ ws, r = .ok ws ∧ ws.length ≠ n ∧ r.firstWord n = .error .malformedResponse) ∨
    (∃ f landed, r = .failed f landed ∧ r.firstWord n = .error f) := by
  cases r with
  | failed f landed => exact .inr (.inr ⟨f, landed, rfl, rfl⟩)
  | ok ws =>
    cases ws with
    | nil => exact .inr (.inl ⟨[], rfl, by simpa using hn.symm, rfl⟩)
    | cons w ws =>
      by_cases h : (w :: ws).length = n
      · exact .inl ⟨w, ws, rfl, h, by simp only [Reply.firstWord, h, if_true]⟩
      · exact .inr (.inl ⟨_, rfl, h, by simp only [Reply.firstWord, h, if_false]⟩)

theorem StatusRegister.count_ne_zero (r : StatusRegister) : r.count ≠ 0 := by
  cases r <;> decide

/-- The answer to a poll of either wait: the wait ends, or it sleeps. -/
theorem State.afterPoll_cases (s : State) (k : Nat) (wait : Wait) (r : Reply) :
    (∃ res, s.afterPoll k wait r = s.finish k res) ∨ s.afterPoll k wait r = s.sleep k wait := by
  simp only [State.afterPoll]
  split
  · exact .inl ⟨_, rfl⟩
  · cases wait with
    | move c =>
      simp only [State.moveTest]
      split
      · exact .inl ⟨_, rfl⟩
      · split
        · exact .inl ⟨_, rfl⟩
        · exact .inr rfl
    | activation d =>
      simp only [State.activationTest]
      split <;> split
      · exact .inl ⟨_, rfl⟩
      · split
        · exact .inl ⟨_, rfl⟩
        · exact .inr rfl
      · exact .inl ⟨_, rfl⟩
      · split
        · exact .inl ⟨_, rfl⟩
        · exact .inr rfl

/-- The answer to a read ends the operation. -/
theorem State.afterRead_cases (s : State) (k : Nat) (register : StatusRegister) (r : Reply) :
    ∃ res, s.afterRead k register r = s.finish k res := by
  simp only [State.afterRead]
  split <;> exact ⟨_, rfl⟩

/-- What the answer to a call can do, in one disjunction: the call of a write may have reached its device; then the operation
ends with a result, or the session has the next write to send, or a wait sleeps. -/
theorem complete_effect {r : Reply} {s t : State} (h : complete r s = .next t) :
    ∃ (f : InFlight) (x : Session) (m : State), s.link = some f ∧ s.sessions[f.session]? = some x ∧
      (m = s.freeLink ∨
        (∃ now later, x.activity = .writing now later) ∧ m = s.freeLink.land f.call) ∧
      ((∃ res, t = m.finish f.session res) ∨
       (∃ now next rest, x.activity = .writing now (next :: rest) ∧
          t = m.setActivity f.session (.answered next rest)) ∨
       (∃ wait, x.activity = .polling wait ∧ t = m.sleep f.session wait)) := by
  obtain ⟨f, x, hf, hx, ⟨now, later, ha, rfl⟩ | ⟨register, ha, rfl⟩ | ⟨wait, ha, rfl⟩⟩ := complete_next h
  · rcases s.freeLink.afterWrite_cases f.session f.call later r with
      ⟨ws, -, -, ht⟩ | ⟨ws, next, rest, -, rfl, ht⟩ | ⟨e, -, ht⟩ | ⟨e, -, ht⟩
    · exact ⟨f, x, _, hf, hx, .inr ⟨⟨_, _, ha⟩, rfl⟩, .inl ⟨_, ht⟩⟩
    · exact ⟨f, x, _, hf, hx, .inr ⟨⟨_, _, ha⟩, rfl⟩, .inr (.inl ⟨_, _, _, ha, ht⟩)⟩
    · exact ⟨f, x, _, hf, hx, .inr ⟨⟨_, _, ha⟩, rfl⟩, .inl ⟨_, ht⟩⟩
    · exact ⟨f, x, _, hf, hx, .inl rfl, .inl ⟨_, ht⟩⟩
  · obtain ⟨res, ht⟩ := s.freeLink.afterRead_cases f.session register r
    exact ⟨f, x, _, hf, hx, .inl rfl, .inl ⟨_, ht⟩⟩
  · rcases s.freeLink.afterPoll_cases f.session wait r with ⟨res, ht⟩ | ht
    · exact ⟨f, x, _, hf, hx, .inl rfl, .inl ⟨_, ht⟩⟩
    · exact ⟨f, x, _, hf, hx, .inl rfl, .inr (.inr ⟨_, ha, ht⟩)⟩

/-- Cancelling: the session exists. -/
theorem cancel_next {k : Nat} {s t : State} (h : cancel k s = .next t) :
    ∃ x, s.sessions[k]? = some x ∧ t = s.setActivity k x.activity.withCancel := by
  simp only [cancel] at h
  split at h
  · cases h
  · next x hx => exact ⟨x, hx, by simpa using h.symm⟩

end Sys2Proof.Machine
end

