-- ==== Sys2Proof/Laws/Step.lean ====
section
/-! SUPPORT. What the block's operations and one step can do. -/

namespace Sys2Proof.Machine

open Sys2Proof

/-- An operation of the block answers with one response that the state has no part in. -/
theorem exec_is_answer (i : Instr) : ∃ r : Response, ∀ s : State, exec i s = answer r s := by
  cases i <;> exact ⟨_, fun _ => rfl⟩

/-- Where a step answers a next state, its input is one of these and has done this. -/
theorem step_next {s t : State} (h : step s = .next t) :
    (s.events = [] ∧ t = s) ∨
    (∃ r resp rest, s.events = .request r :: rest ∧ t = State.deliver { s with events := rest } resp) ∨
    (∃ rest, s.events = .openSession :: rest ∧ t = State.openSession { s with events := rest }) ∨
    (∃ k op rest, s.events = .invoke k op :: rest ∧ invoke k op { s with events := rest } = .next t) ∨
    (∃ k rest, s.events = .resume k :: rest ∧ resume k { s with events := rest } = .next t) ∨
    (∃ r rest, s.events = .reply r :: rest ∧ complete r { s with events := rest } = .next t) ∨
    (∃ k rest, s.events = .cancel k :: rest ∧ cancel k { s with events := rest } = .next t) ∨
    (∃ d rest, s.events = .elapse d :: rest ∧ t = State.elapse { s with events := rest } d) ∨
    (∃ c rest, s.events = .deviceChange c :: rest ∧ t = State.deviceChange { s with events := rest } c) := by
  simp only [step] at h
  split at h
  · next he => exact .inl ⟨he, by simpa using h.symm⟩
  · next r rest he =>
    obtain ⟨resp, hr⟩ := exec_is_answer (decodeRequest r)
    rw [hr] at h
    exact .inr (.inl ⟨r, resp, rest, he, by simpa [answer] using h.symm⟩)
  · next rest he => exact .inr (.inr (.inl ⟨rest, he, by simpa using h.symm⟩))
  · next k op rest he => exact .inr (.inr (.inr (.inl ⟨k, op, rest, he, h⟩)))
  · next k rest he => exact .inr (.inr (.inr (.inr (.inl ⟨k, rest, he, h⟩))))
  · next r rest he => exact .inr (.inr (.inr (.inr (.inr (.inl ⟨r, rest, he, h⟩)))))
  · next k rest he => exact .inr (.inr (.inr (.inr (.inr (.inr (.inl ⟨k, rest, he, h⟩))))))
  · next d rest he =>
    exact .inr (.inr (.inr (.inr (.inr (.inr (.inr (.inl ⟨d, rest, he, by simpa using h.symm⟩)))))))
  · next c rest he =>
    exact .inr (.inr (.inr (.inr (.inr (.inr (.inr (.inr ⟨c, rest, he, by simpa using h.symm⟩)))))))

/-! ### A step on an input put ahead -/

theorem step_feed_invoke (s : State) (k : Nat) (op : SessionOp) (es : List Event) :
    step (s.feed (.invoke k op :: es)) = invoke k op (s.feed es) := rfl

theorem step_feed_resume (s : State) (k : Nat) (es : List Event) :
    step (s.feed (.resume k :: es)) = resume k (s.feed es) := rfl

theorem step_feed_reply (s : State) (r : Reply) (es : List Event) :
    step (s.feed (.reply r :: es)) = complete r (s.feed es) := rfl

theorem step_feed_cancel (s : State) (k : Nat) (es : List Event) :
    step (s.feed (.cancel k :: es)) = cancel k (s.feed es) := rfl

/-! ### A run whose first input is put ahead -/

theorem State.begin_feed (s : State) (k : Nat) (u : Byte) (op : SessionOp) (es : List Event) :
    (s.feed es).begin k u op = (s.begin k u op).feed es := by
  cases op
  case setDeviceAddress a =>
    simp only [State.begin, State.setDeviceAddress]
    split <;> rfl
  all_goals rfl

theorem State.afterWrite_feed (s : State) (es : List Event) (k : Nat) (c : Call) (later : List ControlWrite) (r : Reply) :
    (s.feed es).afterWrite k c later r = (s.afterWrite k c later r).feed es := by
  cases r with
  | ok ws => cases later <;> cases c <;> rfl
  | failed f landed => cases landed <;> cases c <;> rfl

theorem State.afterRead_feed (s : State) (es : List Event) (k : Nat) (register : StatusRegister) (r : Reply) :
    (s.feed es).afterRead k register r = (s.afterRead k register r).feed es := by
  simp only [State.afterRead]
  split <;> rfl

theorem State.afterPoll_feed (s : State) (es : List Event) (k : Nat) (wait : Wait) (r : Reply) :
    (s.feed es).afterPoll k wait r = (s.afterPoll k wait r).feed es := by
  simp only [State.afterPoll, State.moveTest, State.activationTest, State.feed_clock]
  split
  · rfl
  · next w _ =>
    cases wait with
    | move c => dsimp only; split_ifs <;> rfl
    | activation d =>
      by_cases hl : Config.lateSuccessCounts = true <;> by_cases ha : (decodeStatus w).activationState = 3#2 <;>
        by_cases hd : d ≤ s.clock <;> simp only [hl, ha, hd, ↓reduceIte] <;> rfl

/-- An idle session starts an operation on a free link. -/
theorem run_feed_invoke {s : State} {k : Nat} {u : Byte} (h : s.At k u .idle) (hl : s.link = none) (op : SessionOp) (n : Nat)
    (es : List Event) : run (n + 1) (s.feed (.invoke k op :: es)) = run n ((s.begin k u op).feed es) := by
  apply run_succ_of_next
  rw [step_feed_invoke, invoke_of_idle (s := s.feed es) h op hl, State.begin_feed]

/-- A sleeping session wakes and polls on a free link. -/
theorem run_feed_wake {s : State} {k : Nat} {u : Byte} {wait : Wait} {wakeTime : Nat} (hl : s.link = none)
    (h : s.At k u (.sleeping wait wakeTime)) (n : Nat) (es : List Event) :
    run (n + 1) (s.feed (.resume k :: es)) =
      run n (((s.wake wakeTime).await k (.polling wait) (readCall u .status)).feed es) :=
  run_succ_of_next (resume_of_sleeping (s := s.feed es) hl h)

/-- A session whose write is answered sends the next one on a free link. -/
theorem run_feed_next_write {s : State} {k : Nat} {u : Byte} {next : ControlWrite} {later : List ControlWrite}
    (hl : s.link = none) (h : s.At k u (.answered next later)) (n : Nat) (es : List Event) :
    run (n + 1) (s.feed (.resume k :: es)) =
      run n ((s.await k (.writing next later) (writeCall u next)).feed es) :=
  run_succ_of_next (resume_of_answered (s := s.feed es) hl h)

/-- The devices' changes come first, one step each. -/
theorem run_feed_deviceChanges (cs : List DeviceChange) (s : State) (n : Nat) (es : List Event) :
    run (cs.length + n) (s.feed (cs.map .deviceChange ++ es)) = run n ((s.deviceChanges cs).feed es) := by
  induction cs generalizing s with
  | nil => simp [State.deviceChanges]
  | cons c cs ih =>
    rw [List.length_cons, Nat.add_right_comm]
    exact (run_succ_of_next rfl).trans (ih (s.deviceChange c))

/-- The answer to a write that is outstanding. -/
theorem complete_of_writing {s : State} {k : Nat} {u : Byte} {now : ControlWrite} {later : List ControlWrite} {c : Call}
    (hl : s.link = some { session := k, call := c }) (h : s.At k u (.writing now later)) (r : Reply) :
    complete r s = .next (s.freeLink.afterWrite k c later r) := by
  simp only [State.At] at h
  simp [complete, hl, h]

/-- The answer to a read that is outstanding. -/
theorem complete_of_reading {s : State} {k : Nat} {u : Byte} {register : StatusRegister} {c : Call}
    (hl : s.link = some { session := k, call := c }) (h : s.At k u (.reading register)) (r : Reply) :
    complete r s = .next (s.freeLink.afterRead k register r) := by
  simp only [State.At] at h
  simp [complete, hl, h]

/-- The answer to a poll that is outstanding. -/
theorem complete_of_polling {s : State} {k : Nat} {u : Byte} {wait : Wait} {c : Call}
    (hl : s.link = some { session := k, call := c }) (h : s.At k u (.polling wait)) (r : Reply) :
    complete r s = .next (s.freeLink.afterPoll k wait r) := by
  simp only [State.At] at h
  simp [complete, hl, h]

theorem run_feed_reply_writing {s : State} {k : Nat} {u : Byte} {now : ControlWrite} {later : List ControlWrite}
    {c : Call} (hl : s.link = some { session := k, call := c }) (h : s.At k u (.writing now later)) (r : Reply) (n : Nat)
    (es : List Event) : run (n + 1) (s.feed (.reply r :: es)) =
      run n ((s.freeLink.afterWrite k c later r).feed es) := by
  apply run_succ_of_next
  rw [step_feed_reply, complete_of_writing (s := s.feed es) hl h]
  exact congrArg _ (s.freeLink.afterWrite_feed es k c later r)

theorem run_feed_reply_reading {s : State} {k : Nat} {u : Byte} {register : StatusRegister} {c : Call}
    (hl : s.link = some { session := k, call := c }) (h : s.At k u (.reading register)) (r : Reply) (n : Nat)
    (es : List Event) : run (n + 1) (s.feed (.reply r :: es)) =
      run n ((s.freeLink.afterRead k register r).feed es) := by
  apply run_succ_of_next
  rw [step_feed_reply, complete_of_reading (s := s.feed es) hl h]
  exact congrArg _ (s.freeLink.afterRead_feed es k register r)

theorem run_feed_reply_polling {s : State} {k : Nat} {u : Byte} {wait : Wait} {c : Call}
    (hl : s.link = some { session := k, call := c }) (h : s.At k u (.polling wait)) (r : Reply) (n : Nat)
    (es : List Event) : run (n + 1) (s.feed (.reply r :: es)) =
      run n ((s.freeLink.afterPoll k wait r).feed es) := by
  apply run_succ_of_next
  rw [step_feed_reply, complete_of_polling (s := s.feed es) hl h]
  exact congrArg _ (s.freeLink.afterPoll_feed es k wait r)

end Sys2Proof.Machine
end

