-- ==== Sys2Proof/Tests/Slice0.lean ====
section
/-! SUPPORT. Tests of one step each, on vectors of the spec (95_test_vectors.md unless another file is named), the smoke
tests of the checks, and for every obligation with hypotheses a state and operands that meet them. -/

namespace Sys2Proof.Tests

open Sys2Proof Sys2Proof.Machine

/-! ### Helpers -/

/-- Session 0 at address 9 and the given position, on the given link, at the given time; a second session, idle, at 3. -/
def at9 (a : Activity) (link : Option InFlight) (clock : Nat) : State :=
  { events := [], responses := [], sessions := [{ unitId := 9, activity := a }, { unitId := 3, activity := .idle }],
    link := link, trace := [], results := [], control := [], clock := clock }

/-- Session 0, idle, on a free link. -/
def idle9 : State := at9 .idle none 0

/-- What the one response of a step is. -/
def responseOf (i : Instr) : Option Response :=
  match exec i idle9 with
  | .next t => t.responses.head?
  | .fault _ => none
  | .refused _ => none

/-- The state after a step, if it answers one. -/
def after (s : State) : Option State :=
  match step s with
  | .next t => some t
  | .fault _ => none
  | .refused _ => none

/-- The refusal of a step, if it is one. -/
def refusalOf (s : State) : Option Refusal :=
  match step s with
  | .next _ => none
  | .fault _ => none
  | .refused r => some r

/-- A command by its five flags, in the order E M T R D of the table of section 2.1. -/
def cmd (e m t r d : Bool) : ControlCommand :=
  { enable := e, parameterlessMode := m, moveToTarget := t, emergencyRelease := r, releaseDirection := d }

/-- Fault flags by number, 0 to 6. -/
def flags (a b c d e f g : Bool) : FaultFlags :=
  { commandError := a, communicationFault := b, overcurrent := c, voltageOutOfRange := d, enablingError := e,
    overtemperature := f, selfFault := g }

/-! ### The checks refuse ill-formed terms -/

/-- 40_command_encoder.md R101: 256 is outside the legal range, 255 inside; the block accepts both. -/
theorem test_legal_range_refuses_256 :
    Instr.inLegalRange (.encPosition 256#16) = false ∧ Instr.inLegalRange (.encPosition 255#16) = true ∧
    Instr.wellFormed (.encPosition 256#16) = true := by decide

/-- 10_state.md R24: `speed` is no port of ENC_POSITION. -/
theorem test_canonical_refuses_unused_port :
    Request.canonical { Request.quiet with op := 1, position := 200, speed := 1 } = false ∧
    Request.canonical { Request.quiet with op := 1, position := 200 } = true := by decide

theorem test_six_bytes_are_rejected_by_name : decode [0, 0, 0, 0, 0, 0] = .error (.tooShort 6) := rfl

theorem test_eight_bytes_are_rejected_by_name : decode [0, 0, 0, 0, 0, 0, 0, 0] = .error (.tooLong 8) := rfl

/-! ### Decoding: the requests of program P1, written out port by port

The bits from the highest down: `word` 16, `force` 8, `speed` 8, `position` 16, the five `c_` ports (the last of R24
highest), `op` 3 (30_encoding.md R80). -/

theorem test_decode_encControl :
    decodeTableWord 56 0b0000000000000000_00000000_00000000_0000000000000000_00101_000 =
      some (.encControl (cmd true false true false false)) := by decide

theorem test_decode_encPosition :
    decodeTableWord 56 0b0000000000000000_00000000_00000000_0000000011001000_00000_001 =
      some (.encPosition 200) := by decide

theorem test_decode_encSpeedForce :
    decodeTableWord 56 0b0000000000000000_01000000_10000000_0000000000000000_00000_010 =
      some (.encSpeedForce 0x80 0x40) := by decide

theorem test_decode_decStatus :
    decodeTableWord 56 0b0000000010111001_00000000_00000000_0000000000000000_00000_011 =
      some (.decStatus 0x00B9) := by decide

theorem test_decode_decFault :
    decodeTableWord 56 0b0000000000000101_00000000_00000000_0000000000000000_00000_100 =
      some (.decFault 0x0005) := by decide

theorem test_decode_decFaultPosition :
    decodeTableWord 56 0b0000000100000101_00000000_00000000_0000000000000000_00000_101 =
      some (.decFaultPosition 0x0105) := by decide

theorem test_decode_decSpeedForce :
    decodeTableWord 56 0b0100000010000000_00000000_00000000_0000000000000000_00000_110 =
      some (.decSpeedForce 0x4080) := by decide

theorem test_decode_decVoltageTemperature :
    decodeTableWord 56 0b0001100100011000_00000000_00000000_0000000000000000_00000_111 =
      some (.decVoltageTemperature 0x1918) := by decide

/-- Each `c_` port on its own, in R24's order. -/
theorem test_decode_each_flag :
    decodeTableWord 8 0b00001_000 = some (.encControl (cmd true false false false false)) ∧
    decodeTableWord 8 0b00010_000 = some (.encControl (cmd false true false false false)) ∧
    decodeTableWord 8 0b00100_000 = some (.encControl (cmd false false true false false)) ∧
    decodeTableWord 8 0b01000_000 = some (.encControl (cmd false false false true false)) ∧
    decodeTableWord 8 0b10000_000 = some (.encControl (cmd false false false false true)) := by decide

/-- Ports an operation does not read may hold anything (R24). -/
theorem test_decode_ignores_unused_ports : decodeTableWord 56 0x123456789AF805 = some (.decFaultPosition 0x1234) := by
  decide

/-! ### The eight operations -/

/-- Section 2.1, row 5 (S6). -/
theorem test_encControl_source_example :
    responseOf (.encControl (cmd true false true false false)) = some (.encControl 0x09 0x0009) := by decide

/-- Section 2.1, rows 31 and 30. -/
theorem test_encControl_all_true :
    responseOf (.encControl (cmd true true true true true)) = some (.encControl 0x3B 0x003B) ∧
    responseOf (.encControl (cmd false true true true true)) = some (.encControl 0x3A 0x003A) := by decide

/-- Section 2.2. -/
theorem test_encPosition_200 : responseOf (.encPosition 200) = some (.encPosition 0xC800) := by decide

/-- Section 2.2: out of range, the high bits are lost. -/
theorem test_encPosition_wraps :
    responseOf (.encPosition 0x0100) = some (.encPosition 0x0000) ∧
    responseOf (.encPosition 0x1234) = some (.encPosition 0x3400) := by decide

/-- Section 2.3: the operand order is the reverse of the hexadecimal reading. -/
theorem test_encSpeedForce_order : responseOf (.encSpeedForce 0x12 0x34) = some (.encSpeedForce 0x3412) := by decide

/-- Section 2.3. -/
theorem test_encSpeedForce_edges :
    responseOf (.encSpeedForce 0xFF 0x00) = some (.encSpeedForce 0x00FF) ∧
    responseOf (.encSpeedForce 0x00 0xFF) = some (.encSpeedForce 0xFF00) := by decide

/-- Section 2.4, 0x00B9. -/
theorem test_decStatus_b9 :
    responseOf (.decStatus 0x00B9) = some (.decStatus
      { activated := true, dropDetected := false, parameterlessMode := false, goingToTarget := true,
        activationState := 3, motionState := 2 }) := by decide

/-- Section 2.4, 0xAB5A: the high byte is ignored, and each 2-bit field is 1. -/
theorem test_decStatus_ab5a :
    responseOf (.decStatus 0xAB5A) = some (.decStatus
      { activated := false, dropDetected := true, parameterlessMode := false, goingToTarget := true,
        activationState := 1, motionState := 1 }) := by decide

/-- Section 2.5, 0x1234. -/
theorem test_decFault_1234 :
    responseOf (.decFault 0x1234) = some (.decFault (flags false false true false true true false)) := by decide

/-- Section 2.5, 0xFF80 and 0x00FF: bit 7 and the high byte are ignored. -/
theorem test_decFault_bit7 :
    responseOf (.decFault 0xFF80) = some (.decFault (flags false false false false false false false)) ∧
    responseOf (.decFault 0x00FF) = some (.decFault (flags true true true true true true true)) := by decide

/-- Section 2.6, 0x0203 (S4 with 90_conflicts.md C8). -/
theorem test_decFaultPosition_0203 :
    responseOf (.decFaultPosition 0x0203) =
      some (.decFaultPosition { fault := flags true true false false false false false, position := 2 }) := by decide

/-- Section 2.6, 0xC855. -/
theorem test_decFaultPosition_c855 :
    responseOf (.decFaultPosition 0xC855) =
      some (.decFaultPosition { fault := flags true false true false true false true, position := 200 }) := by decide

/-- Section 2.7. -/
theorem test_decSpeedForce_3412 :
    responseOf (.decSpeedForce 0x3412) = some (.decSpeedForce { speed := 0x12, force := 0x34 }) := by decide

/-- Section 2.8. -/
theorem test_decVoltageTemperature_1918 :
    responseOf (.decVoltageTemperature 0x1918) =
      some (.decVoltageTemperature { voltage := 24, temperature := 25 }) := by decide

/-- 30_encoding.md R83: the names by number. -/
theorem test_names_by_number :
    [0#2, 1#2, 2#2, 3#2].map activationStateName = [.resetOrInspecting, .activating, .reserved, .activated] ∧
    [0#2, 1#2, 2#2, 3#2].map motionStateName =
      [.movingToPosition, .innerSupportDetected, .outerClipDetected, .noObjectDetected] := by decide

/-! ### The host rules (section 2.9), one step each -/

/-- S9: 247 is assigned. -/
theorem test_address_247 :
    (after (idle9.feed [.invoke 0 (.setDeviceAddress 247)])).map (fun t => (t.sessions.map (·.unitId), t.results)) =
      some ([247, 3], [(0, .done)]) := by decide

/-- S9: 248 is not, and the address stays. -/
theorem test_address_248 :
    (after (idle9.feed [.invoke 0 (.setDeviceAddress 248)])).map (fun t => (t.sessions.map (·.unitId), t.results)) =
      some ([9, 3], [(0, .error (.configurationError 248))]) := by decide

/-- The words of `clearControl`, `activate`, `executeMove`, `stop`, `setTargetPosition(300)`, `setSpeedForce(0x80, 0x40)`. -/
theorem test_words_written :
    [clearControl, activate, executeMove, stop, setTargetPosition 300, setSpeedForce 0x80 0x40].map (·.1.word) =
      [0x0000#16, 0x0001#16, 0x0009#16, 0x0001#16, 0x2C00#16, 0x4080#16] := by decide

/-- P3, steps 1 to 8: four writes in order. -/
theorem test_executeControlMovement_order :
    (executeControlMovement 0x80 0x40 200).1 = { register := .speedForce, word := 0x4080 } ∧
    (executeControlMovement 0x80 0x40 200).2 =
      [{ register := .position, word := 0xC800 }, { register := .control, word := 0x0009 },
       { register := .control, word := 0x0009 }] := by decide

/-- Section 2.9: the answer [0x00B9, 0x1234] to a status read; the second word is dropped. -/
theorem test_readStatus_answer :
    (after ((at9 (.reading .status) (some { session := 0, call := .readInput 9 7 2 }) 0).feed
      [.reply (.ok [0x00B9, 0x1234])])).map (·.results) =
      some [(0, .status
        { activated := true, dropDetected := false, parameterlessMode := false, goingToTarget := true,
          activationState := 3, motionState := 2 })] := by decide

/-- Section 2.9: `readSoftwareVersion` hands the word on as it is. -/
theorem test_readSoftwareVersion_answer :
    (after ((at9 (.reading .softwareInfo) (some { session := 0, call := .readInput 9 11 1 }) 0).feed
      [.reply (.ok [0xBEEF])])).map (·.results) = some [(0, .softwareVersion 0xBEEF)] := by decide

/-- Section 2.9: a failing read is its error; 20_memory.md R62: so is a short one. -/
theorem test_failing_read :
    (after ((at9 (.reading .status) (some { session := 0, call := .readInput 9 7 2 }) 0).feed
      [.reply (.failed .deviceNak false)])).map (·.results) = some [(0, .error (.transportError .deviceNak))] ∧
    (after ((at9 (.reading .status) (some { session := 0, call := .readInput 9 7 2 }) 0).feed
      [.reply (.ok [0x00B9])])).map (·.results) = some [(0, .error (.transportError .malformedResponse))] := by decide

/-- P3, step 11: OUTER_CLIP_DETECTED ends `waitForMove`. -/
theorem test_waitForMove_ends :
    (after ((at9 (.polling (.move false)) (some { session := 0, call := .readInput 9 7 2 }) 0).feed
      [.reply (.ok [0x00B9, 0])])).map (·.results) = some [(0, .done)] := by decide

/-- P3, step 9: MOVING_TO_POSITION does not. -/
theorem test_waitForMove_goes_on :
    (after ((at9 (.polling (.move false)) (some { session := 0, call := .readInput 9 7 2 }) 0).feed
      [.reply (.ok [0x0039, 0])])).map (·.results) = some [] := by rfl

/-- P2, step 6: the `activated` bit does not end `waitForActivation`, and before the deadline nothing else does. -/
theorem test_waitForActivation_goes_on :
    (after ((at9 (.polling (.activation 100)) (some { session := 0, call := .readInput 9 7 2 }) 99).feed
      [.reply (.ok [0x0011, 0])])).map (·.results) = some [] := by
  cases h : Config.lateSuccessCounts <;>
    simp [after, step, State.feed, at9, complete, State.freeLink, State.afterPoll, Reply.firstWord,
      StatusRegister.count, Config.statusReadCount, State.activationTest, h, decodeStatus, twoBitField, State.sleep,
      State.setActivity]

/-- 42_host_sequences.md R150: the first call goes out with the start of the operation. -/
theorem test_first_call_goes_out_at_once :
    ((after (idle9.feed [.invoke 0 .readStatus])).map fun t => t.link.map (·.session)) = some (some 0) := by decide

/-- 70_reset_and_hazards.md R187: after the answer to the first of two writes the link is free, and the session goes on with
the second. -/
theorem test_link_is_free_between_writes :
    let w2 : ControlWrite := { register := .control, word := 0x0009 }
    ((after ((at9 (.writing { register := .position, word := 0xC800 } [w2])
      (some { session := 0, call := .writeRegs 9 1 [0xC800] }) 0).feed [.reply (.ok [])])).map fun t =>
        (t.link, t.sessions.map (·.activity))) = some (none, [.answered w2 [], .idle]) ∧
    ((after ((at9 (.answered w2 []) none 0).feed [.resume 0])).map fun t =>
        (t.link.map (·.session), t.sessions.map (·.activity))) = some (some 0, [.writing w2 [], .idle]) := by decide

/-- U2, 42_host_sequences.md R151: no other session goes on or starts an operation while a call is outstanding. -/
theorem test_busy_link_holds_sessions_back :
    let s := at9 (.sleeping (.move false) 5) (some { session := 1, call := .readInput 3 7 2 }) 0
    let s' := at9 .idle (some { session := 1, call := .readInput 3 7 2 }) 0
    refusalOf (s.feed [.resume 0]) = some .linkBusy ∧ refusalOf (s'.feed [.invoke 0 .stop]) = some .linkBusy ∧
    refusalOf (s'.feed [.invoke 0 (.setDeviceAddress 5)]) = some .linkBusy := by decide

/-- U3: an address change in flight. -/
theorem test_address_change_in_flight_is_refused :
    refusalOf ((at9 (.reading .status) (some { session := 0, call := .readInput 9 7 2 }) 0).feed
      [.invoke 0 (.setDeviceAddress 5)]) = some .addressChangeInFlight := by decide

/-- Inputs without a meaning are refused by name. -/
theorem test_other_refusals :
    refusalOf (idle9.feed [.resume 0]) = some .nothingToResume ∧
    refusalOf (idle9.feed [.resume 2]) = some .noSuchSession ∧
    refusalOf (idle9.feed [.reply (.ok [])]) = some .noCallOutstanding ∧
    refusalOf ((at9 (.sleeping (.move false) 5) none 0).feed [.invoke 0 .stop]) = some .sessionBusy := by decide

/-! ### The device's registers -/

/-- Writes keep the canonical form and the last one counts. -/
theorem test_memory_write :
    Memory.writeRun (Memory.write [(5, 1#16), (9, 2#16)] 7 3#16) 5 [4#16, 6#16] =
      [(5, 4#16), (6, 6#16), (7, 3#16), (9, 2#16)] := by decide

theorem test_memory_wf_refuses_disorder :
    Memory.wf [(5, 1#16), (5, 2#16)] = false ∧ Memory.wf [(6, 1#16), (5, 2#16)] = false := by decide

/-! ### Witnesses: states and operands that meet the hypotheses of the obligations

One theorem per obligation with hypotheses, named after it. `at9` gives the states. -/

theorem test_witness_EncControlBuildsControlValue :
    exec (.encControl (cmd true false true false false)) idle9 =
      .next { idle9 with responses := idle9.responses ++ [.encControl 0x09 0x0009] } := rfl

theorem test_witness_EncPositionShiftsIntoHighByte : (256#16).toNat % 256 = (0#16).toNat % 256 := by decide

theorem test_witness_PositionWordLaw : (255#16).toNat ≤ 255 := by decide

theorem test_witness_SpeedForceRoundTrip :
    exec (.encSpeedForce 0xFF 0x01) idle9 =
      .next { idle9 with responses := idle9.responses ++ [.encSpeedForce 0x01FF] } ∧
    exec (.decSpeedForce 0x01FF) idle9 =
      .next { idle9 with responses := idle9.responses ++ [.decSpeedForce { speed := 0xFF, force := 0x01 }] } :=
  ⟨rfl, rfl⟩

theorem test_witness_DecFaultReadsSevenFlags : (0x80#16).toNat % 128 = (0x0000#16).toNat % 128 := by decide

theorem test_witness_DecodersIgnoreNamedBits :
    exec (.decSpeedForce 0xFFFF) idle9 = exec (.decSpeedForce 0xFFFF) idle9 ∧
    exec (.decVoltageTemperature 0) idle9 = exec (.decVoltageTemperature 0) idle9 := ⟨rfl, rfl⟩

/-- One pair of different requests for each of the four kinds of operand. -/
theorem test_witness_UnusedPortsDoNotMatter :
    ∀ p ∈ [({ Request.quiet with op := 0 }, { Request.quiet with op := 0, word := 1 }),
           ({ Request.quiet with op := 1 }, { Request.quiet with op := 1, cEnable := true }),
           ({ Request.quiet with op := 2 }, { Request.quiet with op := 2, position := 0xFFFF }),
           ({ Request.quiet with op := 3 }, { Request.quiet with op := 3, speed := 0xFF }),
           ({ Request.quiet with op := 7 }, { Request.quiet with op := 7, force := 0xFF })],
      p.1 ≠ p.2 ∧ p.1.op = p.2.op ∧ (p.1.op = 0#3 → p.1.command = p.2.command) ∧
      (p.1.op = 1#3 → p.1.position = p.2.position) ∧ (p.1.op = 2#3 → p.1.speed = p.2.speed ∧ p.1.force = p.2.force) ∧
      (3 ≤ p.1.op.toNat → p.1.word = p.2.word) := by decide

theorem test_witness_OpSelectsTheOperation :
    ∀ n : BitVec 3, Request.op { Request.quiet with op := n } = n := fun _ => rfl

theorem test_witness_DecodeOfEncode : Instr.wellFormed (.encPosition 0xFFFF) = true := rfl

theorem test_witness_EncodeOfDecode :
    (Request.ofBytes [0x01, 0xFF, 0xFF, 0, 0, 0, 0]).toOption = some { Request.quiet with op := 1, position := 0xFFFF } ∧
    Request.canonical { Request.quiet with op := 1, position := 0xFFFF } = true := by decide

theorem test_witness_DecodeIsTotalOnSevenBytes :
    ([0, 0, 0, 0, 0, 0, 0] : List Byte).length = 7 ∧ ([0, 0, 0, 0, 0, 0] : List Byte).length < 7 ∧
    7 < ([0, 0, 0, 0, 0, 0, 0, 0] : List Byte).length := by decide

theorem test_witness_StepRunsTheDecodedInstruction :
    (idle9.feed [.request { Request.quiet with op := 7, word := 1 }]).events =
      [.request { Request.quiet with op := 7, word := 1 }] ∧
    (Request.ofBytes [7, 0, 0, 0, 0, 1, 0]).toOption = some { Request.quiet with op := 7, word := 1 } ∧
    (decode [7, 0, 0, 0, 0, 1, 0]).toOption = some (.decVoltageTemperature 1) ∧
    Instr.wellFormed (.decVoltageTemperature 1) = true := by decide

theorem test_witness_FetchedWordIsRunNext : decodeTableWord 8 0x06 = some (.decSpeedForce 0) := by decide

theorem test_withFetchWord_runs_next :
    (after (idle9.withFetchWord 56 0x0000000000C801)).map (·.responses) = some [.encPosition 0xC800] := by decide

theorem test_witness_NoInputNoChange : State.reset.events = [] := rfl

theorem test_witness_RegisterMapAddresses : ControlRegister.control.address = ControlRegister.control.address ∧
    StatusRegister.status.address = StatusRegister.status.address := ⟨rfl, rfl⟩

/-- An idle session on a free link: the hypotheses of SetDeviceAddress (with addresses 247 and 248, and another session),
ReadStatus, SingleWrites, HelperCommandWords, MoveToPositionWritesInOrder, CompositeIntermediateStateShows,
ExecuteControlMovementWritesInOrder, FailedFirstWriteStopsComposite. -/
theorem test_witness_idle : idle9.At 0 9 .idle ∧ idle9.link = none := ⟨rfl, rfl⟩

theorem test_witness_SetDeviceAddress :
    idle9.At 0 9 .idle ∧ idle9.link = none ∧ (247#8).toNat ≤ 247 ∧ 247 < (248#8).toNat ∧ 1 ≠ 0 :=
  ⟨rfl, rfl, by decide, by decide, by decide⟩

theorem test_witness_AddressChangeInFlightRefused :
    let s := at9 (.reading .status) (some { session := 0, call := readCall 9 .status }) 0
    s.link = some { session := 0, call := readCall 9 .status } ∧
    s.sessions[0]? = some { unitId := 9, activity := .reading .status } ∧
    Session.awaitedCall { unitId := 9, activity := .reading .status } = some (readCall 9 .status) := ⟨rfl, rfl, rfl⟩

theorem test_witness_BusySessionStartsNothing :
    (at9 (.sleeping (.move false) 5) none 0).At 0 9 (.sleeping (.move false) 5) ∧
    Activity.sleeping (.move false) 5 ≠ .idle := ⟨rfl, by decide⟩

/-- The three kinds of answer, at each boundary of the number of words. -/
theorem test_witness_ReadStatus :
    idle9.At 0 9 .idle ∧ idle9.link = none ∧
    Reply.ok [0x00B9, 0x1234] = .ok [0x00B9, 0x1234] ∧ ([0x00B9#16] : List Word).length ≠ 2 ∧
    ([1#16, 2#16, 3#16] : List Word).length ≠ 2 ∧ Reply.failed .linkDown false = .failed .linkDown false :=
  ⟨rfl, rfl, rfl, by decide, by decide, rfl⟩

theorem test_witness_SingleWordReads (value : Word → Result) (h : value = fun w => Result.softwareVersion w) :
    (SessionOp.readSoftwareVersion, 4, value) ∈
      [(SessionOp.readFaultPosition, 1, fun w => Result.faultPosition (decodeFaultPosition w)),
       (SessionOp.readSpeedForce, 2, fun w => Result.speedForce (decodeSpeedForce w)),
       (SessionOp.readVoltageTemperature, 3, fun w => Result.voltageTemperature (decodeVoltageTemperature w)),
       (SessionOp.readSoftwareVersion, 4, fun w => Result.softwareVersion w)] ∧
    idle9.At 0 9 .idle ∧ idle9.link = none ∧ ([] : List Word).length ≠ 1 := by
  subst h
  exact ⟨by simp, rfl, rfl, by decide⟩

/-- Each of the three single writes. -/
theorem test_witness_SingleWrites :
    idle9.At 0 9 .idle ∧ idle9.link = none ∧
    exec (.encControl (cmd true false false false false)) idle9 =
      .next { idle9 with responses := idle9.responses ++ [.encControl 0x01 0x0001] } ∧
    exec (.encPosition 300) idle9 = .next { idle9 with responses := idle9.responses ++ [.encPosition 0x2C00] } ∧
    exec (.encSpeedForce 0x80 0x40) idle9 =
      .next { idle9 with responses := idle9.responses ++ [.encSpeedForce 0x4080] } := ⟨rfl, rfl, rfl, rfl, rfl⟩

theorem test_witness_HelperCommandWords :
    (SessionOp.stop, 0x0001#16) ∈ [(SessionOp.clearControl, 0x0000#16), (SessionOp.activate, 0x0001#16),
      (SessionOp.executeMove, 0x0009#16), (SessionOp.stop, 0x0001#16)] := by decide

/-- Another session is idle as well, and is not session 0. -/
theorem test_witness_CompositeIntermediateStateShows :
    idle9.At 0 9 .idle ∧ idle9.link = none ∧ 1 ≠ 0 ∧ idle9.At 1 3 .idle := ⟨rfl, rfl, by decide, rfl⟩

/-- The first of two writes outstanding, and answered; another session. -/
theorem test_witness_LinkIsFreeBetweenWrites :
    let w1 : ControlWrite := { register := .position, word := 0xC800 }
    let w2 : ControlWrite := { register := .control, word := 0x0009 }
    let s := at9 (.writing w1 [w2]) (some { session := 0, call := writeCall 9 w1 }) 0
    s.At 0 9 (.writing w1 [w2]) ∧ s.link = some { session := 0, call := writeCall 9 w1 } ∧ 1 ≠ 0 ∧
    (at9 (.answered w2 []) none 0).At 0 9 (.answered w2 []) ∧ (at9 (.answered w2 []) none 0).link = none :=
  ⟨rfl, rfl, by decide, rfl, rfl⟩

/-- A write outstanding, whose failure may land or not, and a read. -/
theorem test_witness_FailingCallEndsOperation :
    let w : ControlWrite := { register := .position, word := 0xC800 }
    let s := at9 (.writing w []) (some { session := 0, call := writeCall 9 w }) 0
    let s' := at9 (.reading .status) (some { session := 0, call := readCall 9 .status }) 0
    s.link = some { session := 0, call := writeCall 9 w } ∧
    s.sessions[0]? = some { unitId := 9, activity := .writing w [] } ∧
    Session.awaitedCall { unitId := 9, activity := .writing w [] } = some (writeCall 9 w) ∧ 1 ≠ 0 ∧
    s'.link = some { session := 0, call := readCall 9 .status } ∧
    s'.sessions[0]? = some { unitId := 9, activity := .reading .status } ∧
    Session.awaitedCall { unitId := 9, activity := .reading .status } = some (readCall 9 .status) :=
  ⟨rfl, rfl, rfl, by decide, rfl, rfl, rfl⟩

/-- A step that ends with a ConfigurationError, and three with a TransportError: a failed read, a status read and a poll with
a word too few and too many. -/
theorem test_witness_HostErrorsHaveTheirCauses :
    let s := fun a => at9 a (some { session := 0, call := .readInput 9 7 2 }) 0
    let results := fun (s : State) es => (after (s.feed es)).map (·.results)
    results idle9 [.invoke 0 (.setDeviceAddress 248)] = some [(0, .error (.configurationError 248))] ∧
    results (s (.reading .status)) [.reply (.failed .linkDown false)] =
      some [(0, .error (.transportError .linkDown))] ∧
    results (s (.reading .status)) [.reply (.ok [1])] = some [(0, .error (.transportError .malformedResponse))] ∧
    results (s (.polling (.move false))) [.reply (.ok [1, 2, 3])] =
      some [(0, .error (.transportError .malformedResponse))] := by decide

/-- A poll answered at its deadline, which ends with a TimeoutError whatever LATE_SUCCESS_COUNTS is. -/
theorem test_witness_HostErrorsHaveTheirCauses_timeout :
    (after ((at9 (.polling (.activation 100)) (some { session := 0, call := .readInput 9 7 2 }) 100).feed
      [.reply (.ok [0x0010, 0])])).map (·.results) = some [(0, .error .timeoutError)] := by
  cases h : Config.lateSuccessCounts <;>
    simp [after, step, State.feed, at9, complete, State.freeLink, State.afterPoll, Reply.firstWord,
      StatusRegister.count, Config.statusReadCount, State.activationTest, h, decodeStatus, twoBitField, State.raise,
      State.finish, State.setActivity]

/-- The three turns of `waitForMove`, and another session; the motion field at 0 and at 1. -/
theorem test_witness_WaitForMoveLoop :
    idle9.At 0 9 .idle ∧ idle9.link = none ∧ 1 ≠ 0 ∧
    (∀ c, (at9 (.polling (.move c)) (some { session := 0, call := readCall 9 .status }) 0).At 0 9 (.polling (.move c))) ∧
    ([1#16] : List Word).length ≠ 2 ∧ ([1#16, 2#16, 3#16] : List Word).length ≠ 2 ∧
    (0x0039#16).extractLsb' 6 2 = 0#2 ∧ (0x0079#16).extractLsb' 6 2 ≠ 0#2 ∧
    (at9 (.sleeping (.move false) 5) none 0).At 0 9 (.sleeping (.move false) 5) ∧
    (at9 (.sleeping (.move false) 5) none 0).link = none :=
  ⟨rfl, rfl, by decide, fun _ => rfl, by decide, by decide, by decide, by decide, rfl, rfl⟩

/-- A step of another session, and an answer of a device still moving. -/
theorem test_witness_WaitForMoveLeftOnlyByItsPoll :
    (at9 (.sleeping (.move false) 5) none 0).WaitsForMove 0 ∧
    (after ((at9 (.sleeping (.move false) 5) none 0).feed [.cancel 1])).isSome = true ∧
    Event.cancel 1 ≠ Event.cancel 0 ∧ (Reply.ok [0x0039, 0]).StillMoving :=
  ⟨⟨9, .inr ⟨5, rfl⟩⟩, rfl, by decide, _, _, rfl, rfl⟩

theorem test_witness_WaitForMoveNeverReturnsAlone :
    let s := (at9 (.sleeping (.move false) 5) none 0).feed [.elapse 10, .resume 0, .reply (.ok [0x0039, 0])]
    s.WaitsForMove 0 ∧ (∀ e ∈ s.events, e.KeepsMoving 0) ∧ ∃ t, run 3 s = .next t := by
  refine ⟨⟨9, .inr ⟨5, rfl⟩⟩, ?_, _, rfl⟩
  intro e he
  simp only [State.feed, at9, List.append_nil, List.mem_cons, List.not_mem_nil, or_false] at he
  rcases he with rfl | rfl | rfl
  · trivial
  · trivial
  · exact ⟨_, _, rfl, rfl⟩

/-- Asleep, with a poll outstanding, and where there is nothing to cancel. -/
theorem test_witness_CancellationEndsWaitForMove :
    (at9 (.sleeping (.move false) 5) none 0).At 0 9 (.sleeping (.move false) 5) ∧
    (at9 (.sleeping (.move false) 5) none 0).link = none ∧
    (at9 (.polling (.move false)) (some { session := 0, call := readCall 9 .status }) 0).At 0 9
      (.polling (.move false)) ∧
    1 ≠ 0 ∧ (Reply.ok [0x003F, 0]).StillMoving ∧ idle9.At 0 9 .idle ∧
    (∀ c, Activity.idle ≠ .polling (.move c)) ∧ (∀ c t, Activity.idle ≠ .sleeping (.move c) t) :=
  ⟨rfl, rfl, rfl, by decide, ⟨_, _, rfl, rfl⟩, rfl, by simp, by simp⟩

/-- The turns of `waitForActivation`: before and at the deadline, with the field at 3 and not. -/
theorem test_witness_WaitForActivationLoop :
    (∀ t, (at9 (.polling (.activation 100)) (some { session := 0, call := readCall 9 .status }) t).At 0 9
      (.polling (.activation 100))) ∧
    (at9 .idle none 99).clock < 100 ∧ 100 ≤ (at9 .idle none 100).clock ∧
    ([1#16] : List Word).length ≠ 2 ∧ ([1#16, 2#16, 3#16] : List Word).length ≠ 2 ∧
    (0x0031#16).extractLsb' 4 2 = 3#2 ∧ (0x0021#16).extractLsb' 4 2 ≠ 3#2 ∧
    (at9 (.sleeping (.activation 100) 5) none 0).At 0 9 (.sleeping (.activation 100) 5) :=
  ⟨fun _ => rfl, by decide, by decide, by decide, by decide, by decide, by decide, rfl⟩

/-- P2's three words, with a deadline just beyond the two sleeps. -/
theorem test_witness_ActivationAfterThreePolls :
    let s := at9 (.polling (.activation (2 * Config.pollPeriod + 1)))
      (some { session := 0, call := readCall 9 .status }) 0
    s.At 0 9 (.polling (.activation (2 * Config.pollPeriod + 1))) ∧
    s.link = some { session := 0, call := readCall 9 .status } ∧
    s.clock + 2 * Config.pollPeriod < 2 * Config.pollPeriod + 1 ∧
    [0x0010#16, 0x0011#16, 0x0031#16].map (fun w => activationStateName (decodeStatus w).activationState) =
      [.activating, .activating, .activated] := ⟨rfl, rfl, by simp [at9], by decide⟩

theorem test_witness_BusyLinkHoldsSessionsBack :
    let s := at9 .idle (some { session := 1, call := readCall 3 .status }) 0
    s.link.isSome = true ∧ s.At 0 9 .idle := ⟨rfl, rfl⟩

/-- Session 0 awaits its call and session 1 is idle. -/
theorem suspended9 : (at9 (.reading .status) (some { session := 0, call := readCall 9 .status }) 0).Suspended := by
  intro k x hx
  match k, hx with
  | 0, hx => cases hx; exact .inr (.inr (.inl ⟨_, rfl, rfl⟩))
  | 1, hx => cases hx; exact .inl rfl
  | _ + 2, hx => cases hx

/-- A state with a call outstanding and an idle session, and a step from it. -/
theorem test_witness_SuspendedOnlyAtAnswerOrSleep :
    let s := at9 (.reading .status) (some { session := 0, call := readCall 9 .status }) 0
    s.Suspended ∧ ∃ t, step (s.feed [.reply (.ok [0x00B9, 0])]) = .next t :=
  ⟨suspended9, _, rfl⟩

/-- A step of each kind that CallsGoOutOneAtATime and RecordsOnlyGrow speak of: a call goes out. -/
theorem test_witness_CallsGoOutOneAtATime :
    ((after ((at9 (.sleeping (.move false) 5) none 0).feed [.resume 0])).map fun t => (t.link.isSome, t.trace.length)) =
      some (true, 1) := rfl

theorem test_witness_RecordsOnlyGrow :
    (after (idle9.feed [.request { Request.quiet with op := 3 }])).isSome = true := rfl

/-- A write's answer changes the register. The old word is unspecified, so the one written is chosen to differ. -/
theorem test_witness_ControlRegistersChangeByWriteOrDevice :
    ∃ (w : Word) (s t : State), step s = .next t ∧ t.controlWord 9 5 ≠ s.controlWord 9 5 ∧
      s.link = some { session := 0, call := .writeRegs 9 5 [w] } := by
  refine ⟨Config.deviceResetWord 9 5 + 1,
    (at9 (.writing { register := .control, word := 0 } [])
      (some { session := 0, call := .writeRegs 9 5 [Config.deviceResetWord 9 5 + 1] }) 0).feed [.reply (.ok [])],
    _, rfl, ?_, rfl⟩
  show Config.deviceResetWord 9 5 + 1 ≠ Config.deviceResetWord 9 5
  generalize Config.deviceResetWord 9 5 = w
  revert w
  simp

/-- 42_host_sequences.md R151, 70_reset_and_hazards.md R182: a new session comes last, idle; the others stay. -/
theorem test_openSession :
    (after (idle9.feed [.openSession])).map (·.sessions) = some (idle9.sessions ++ [Session.fresh]) := rfl

/-- 20_memory.md R60: while a read is outstanding the device changes a register itself, device 247's last one; the word read
is free all the same. -/
theorem test_deviceChange :
    let c : DeviceChange := { unit := 247, register := .speedForce, word := 0x4080 }
    let s := at9 (.reading .status) (some { session := 0, call := readCall 9 .status }) 0
    (after (s.feed [.deviceChange c])).map (fun t => t.controlWord 247 ControlRegister.speedForce.address) =
      some 0x4080 ∧
    (after (s.feed [.deviceChange c])).map (·.link) = some s.link := by
  refine ⟨?_, rfl⟩
  exact congrArg some ((State.controlWord_deviceChange _ _ _ _).trans (if_pos ⟨rfl, rfl⟩))

/-- A step that moves session 0. -/
theorem test_witness_OtherSessionsKeepStill :
    (after (idle9.feed [.invoke 0 .readStatus])).map (·.sessions[0]?) ≠ some (idle9.sessions[0]?) := by decide

/-- Steps in which time passes: out of a sleep, and by an input while a call is outstanding. -/
theorem test_witness_TimePassesByElapseOrAtSleepEnd :
    (after ((at9 (.sleeping (.move false) 5) none 3).feed [.resume 0])).map (·.clock) = some 5 ∧
    (after ((at9 (.reading .status) (some { session := 0, call := readCall 9 .status }) 3).feed [.elapse 4])).map
      (·.clock) = some 7 := ⟨rfl, rfl⟩

/-- A state within the invariant with a call outstanding, and a step from it. -/
theorem test_witness_StepKeepsTheInvariant :
    let s := at9 (.reading .status) (some { session := 0, call := readCall 9 .status }) 0
    s.Inv ∧ ∃ t, step (s.feed [.reply (.ok [0x00B9, 0])]) = .next t := by
  refine ⟨⟨?_, ?_, suspended9, ?_, rfl, ?_⟩, _, rfl⟩
  · simp [at9, Config.unitIdMax]
  · intro f hf
    cases hf
    exact ⟨_, rfl, rfl⟩
  · simp [at9]
  · simp [at9]

end Sys2Proof.Tests
end

section
/-! SUPPORT. 00_scope.md: the block answers every request in one step, and without an input nothing moves. -/

namespace Sys2Proof.Machine

open Sys2Proof

/-! ### A step on a request, and a step without an input -/

/-- A request put ahead is decoded and run on the state without it. -/
theorem step_feed_request (s : State) (r : Request) (es : List Event) :
    step (s.feed (.request r :: es)) = exec (decodeRequest r) (s.feed es) := rfl

/-- The step without an input stands still (notes/assumptions/1). -/
theorem step_of_events_nil {s : State} (h : s.events = []) : step s = .next s := by
  unfold step
  rw [h]

/-! ### The statements -/

/-- Settles O16: the step runs the decoded request, and every instruction is an answer with one response. -/
theorem everyRequestIsAnswered : Obligations.EveryRequestIsAnswered := by
  intro r s
  obtain ⟨resp, hexec⟩ := exec_is_answer (decodeRequest r)
  refine ⟨resp, ?_⟩
  calc step (s.feed [.request r])
      = exec (decodeRequest r) s := by rw [step_feed_request, State.feed_nil]
    _ = answer resp s := hexec s

/-- Settles O26, by the equation of `step` for a state without inputs. -/
theorem noInputNoChange : Obligations.NoInputNoChange :=
  fun _ hevents => step_of_events_nil hevents

end Sys2Proof.Machine
end

section
/-! SUPPORT. 20_memory.md R63, 42_host_sequences.md R150: which call a session awaits, and how the link, the trace and the
awaited calls move together when an operation of the model runs. -/

namespace Sys2Proof.Machine

open Sys2Proof

/-! ### The call a session awaits -/

/-- The call whose answer session `k` awaits, if there is such a session and it awaits one. -/
def State.awaited (s : State) (k : Nat) : Option Call :=
  s.sessions[k]?.bind Session.awaitedCall

theorem State.At.awaited_eq {s : State} {k : Nat} {u : Byte} {a : Activity} (h : s.At k u a) :
    s.awaited k = Session.awaitedCall { unitId := u, activity := a } := by
  rw [State.At] at h
  rw [State.awaited, h, Option.bind_some]

theorem State.awaited_eq_some {s : State} {k : Nat} {c : Call} :
    s.awaited k = some c ↔ ∃ x, s.sessions[k]? = some x ∧ x.awaitedCall = some c :=
  Option.bind_eq_some_iff

theorem State.awaited_congr {s t : State} (h : t.sessions = s.sessions) (j : Nat) : t.awaited j = s.awaited j := by
  rw [State.awaited, State.awaited, h]

theorem State.awaited_setActivity_other {s : State} {j k : Nat} (h : j ≠ k) (a : Activity) :
    (s.setActivity k a).awaited j = s.awaited j := by
  rw [State.awaited, State.setActivity_other h, State.awaited]

/-- A new position at which the session awaits what it awaited changes nothing in what sessions await. -/
theorem State.At.awaited_setActivity {s : State} {k : Nat} {u : Byte} {a b : Activity} (h : s.At k u a)
    (hab : Session.awaitedCall { unitId := u, activity := b } = Session.awaitedCall { unitId := u, activity := a })
    (j : Nat) : (s.setActivity k b).awaited j = s.awaited j := by
  by_cases hj : j = k
  · rw [hj, (h.setActivity b).awaited_eq, hab, h.awaited_eq]
  · exact State.awaited_setActivity_other hj b

/-- A new session awaits nothing. -/
theorem State.awaited_openSession (s : State) (j : Nat) : s.openSession.awaited j = s.awaited j := by
  simp only [State.awaited, State.openSession_sessions]
  rcases Nat.lt_trichotomy j s.sessions.length with hj | rfl | hj
  · rw [List.getElem?_append_left hj]
  · simp [Session.fresh, Session.awaitedCall]
  · rw [List.getElem?_eq_none (by simp; omega), List.getElem?_eq_none (by omega)]

/-- The setter of the address returns to its caller, and of the rest only the sessions can have changed. -/
theorem State.setDeviceAddress_frame (s : State) (k : Nat) (a : Byte) : ∃ res, s.setDeviceAddress k a =
    { s with sessions := (s.setDeviceAddress k a).sessions, results := s.results ++ [(k, res)] } := by
  simp only [State.setDeviceAddress]
  split <;> exact ⟨_, rfl⟩

/-- The setter of the address makes no session await anything, whichever way it returns. -/
theorem State.At.awaited_setDeviceAddress {s : State} {k : Nat} {u : Byte} (h : s.At k u .idle) (a : Byte) (j : Nat) :
    (s.setDeviceAddress k a).awaited j = s.awaited j := by
  simp only [State.setDeviceAddress]
  split
  · exact h.awaited_setActivity rfl j
  · by_cases hj : j = k
    · subst hj
      rw [h.awaited_eq]
      rw [State.At] at h
      simp [State.awaited, h, Session.awaitedCall]
    · simp [State.awaited, Ne.symm hj]

/-- A cancellation leaves the session at the answer it awaits. -/
theorem Activity.awaitedCall_withCancel (u : Byte) (a : Activity) :
    Session.awaitedCall { unitId := u, activity := a.withCancel } =
      Session.awaitedCall { unitId := u, activity := a } := by
  cases a with
  | polling wait => cases wait <;> rfl
  | sleeping wait _ => cases wait <;> rfl
  | _ => rfl

/-- The positions at which nothing is awaited: idle, asleep, and with the answer to a write at hand. -/
theorem Session.awaitedCall_eq_none {x : Session} : x.awaitedCall = none ↔
    x.activity = .idle ∨ (∃ wait wakeTime, x.activity = .sleeping wait wakeTime) ∨
      ∃ next later, x.activity = .answered next later := by
  obtain ⟨u, a⟩ := x
  cases a <;> simp [Session.awaitedCall]

/-- An awaited call is one of the register map when the session's address is legal (20_memory.md R57). -/
theorem Session.awaitedCall_mapped {x : Session} {c : Call} (hu : x.unitId.toNat ≤ Config.unitIdMax)
    (h : x.awaitedCall = some c) : c.Mapped := by
  obtain ⟨u, a⟩ := x
  cases a with
  | idle | answered _ _ | sleeping _ _ => cases h
  | writing now later => cases h; exact ⟨u, hu, .inl ⟨now, rfl⟩⟩
  | reading register => cases h; exact ⟨u, hu, .inr ⟨register, rfl⟩⟩
  | polling wait => cases h; exact ⟨u, hu, .inr ⟨.status, rfl⟩⟩

/-- Every session is suspended at one of its points exactly when every awaited call is the one outstanding. -/
theorem State.suspended_iff {s : State} :
    s.Suspended ↔ ∀ k c, s.awaited k = some c → s.link = some { session := k, call := c } := by
  constructor
  · intro h k c hc
    obtain ⟨x, hx, hxc⟩ := State.awaited_eq_some.mp hc
    have hnone : x.awaitedCall ≠ none := by simp [hxc]
    rcases h k x hx with hi | hs | ⟨c', hc', hl⟩ | ha
    · exact absurd (Session.awaitedCall_eq_none.mpr (.inl hi)) hnone
    · exact absurd (Session.awaitedCall_eq_none.mpr (.inr (.inl hs))) hnone
    · rwa [Option.some.inj (hxc.symm.trans hc')]
    · exact absurd (Session.awaitedCall_eq_none.mpr (.inr (.inr ha))) hnone
  · intro h k x hx
    cases hc : x.awaitedCall with
    | none =>
      rcases Session.awaitedCall_eq_none.mp hc with hi | hs | ha
      · exact .inl hi
      · exact .inr (.inl hs)
      · exact .inr (.inr (.inr ha))
    | some c => exact .inr (.inr (.inl ⟨c, rfl, h k c (State.awaited_eq_some.mpr ⟨x, hx, hc⟩)⟩))

/-! ### The link, the trace and what is awaited move together -/

/-- What happens on the link from `s` to `t`: nothing; on a free link a call goes out and is awaited by its session; or the call
outstanding is answered and its session awaits nothing any more. -/
inductive State.LinkMove (s t : State) : Prop
  | still (hlink : t.link = s.link) (htrace : t.trace = s.trace) (hawaited : ∀ j, t.awaited j = s.awaited j)
  | issued (k : Nat) (c : Call) (hfree : s.link = none) (hlink : t.link = some { session := k, call := c })
      (htrace : t.trace = s.trace ++ [c]) (hself : t.awaited k = some c)
      (hothers : ∀ j, j ≠ k → t.awaited j = s.awaited j)
  | answered (f : InFlight) (hlink : s.link = some f) (hfree : t.link = none) (htrace : t.trace = s.trace)
      (hself : t.awaited f.session = none) (hothers : ∀ j, j ≠ f.session → t.awaited j = s.awaited j)

/-- A session that issues a call on a free link awaits it. -/
theorem State.At.linkMove_await {s t : State} {k : Nat} {u : Byte} {a b : Activity} {c : Call} (h : s.At k u a)
    (hfree : s.link = none) (hlink : t.link = some { session := k, call := c }) (htrace : t.trace = s.trace ++ [c])
    (hsessions : t.sessions = (s.setActivity k b).sessions)
    (hc : Session.awaitedCall { unitId := u, activity := b } = some c) : s.LinkMove t := by
  refine .issued k c hfree hlink htrace ?_ fun j hj => ?_
  · rw [State.awaited_congr hsessions, (h.setActivity b).awaited_eq, hc]
  · rw [State.awaited_congr hsessions, State.awaited_setActivity_other hj]

/-- The answered session goes to a position at which nothing is awaited. -/
theorem State.At.linkMove_settle {s t : State} {f : InFlight} {u : Byte} {a b : Activity} (h : s.At f.session u a)
    (hlink : s.link = some f) (hfree : t.link = none) (htrace : t.trace = s.trace)
    (hsessions : t.sessions = (s.setActivity f.session b).sessions)
    (hb : Session.awaitedCall { unitId := u, activity := b } = none) : s.LinkMove t := by
  refine .answered f hlink hfree htrace ?_ fun j hj => ?_
  · rw [State.awaited_congr hsessions, (h.setActivity b).awaited_eq, hb]
  · rw [State.awaited_congr hsessions, State.awaited_setActivity_other hj]

theorem invoke_linkMove {k : Nat} {op : SessionOp} {s t : State} (h : invoke k op s = .next t) : s.LinkMove t := by
  obtain ⟨u, hidle, hl, rfl⟩ := invoke_next h
  rcases s.begin_cases k u op with ⟨a, rfl, ht⟩ | ⟨a, c, hc, ht⟩
  · obtain ⟨res, hframe⟩ := s.setDeviceAddress_frame k a
    rw [ht]
    exact .still (by rw [hframe]) (by rw [hframe]) (hidle.awaited_setDeviceAddress a)
  · rw [ht]
    exact hidle.linkMove_await hl rfl rfl rfl hc

theorem resume_linkMove {k : Nat} {s t : State} (h : resume k s = .next t) : s.LinkMove t := by
  obtain ⟨hl, u, a, b, c, m, ha, -, hc, rfl | ⟨wakeTime, rfl⟩, rfl⟩ := resume_effect h
  · exact ha.linkMove_await hl rfl rfl rfl hc
  · exact ha.linkMove_await hl rfl rfl rfl hc

/-- The state in which an answer is taken in: the link free, a write perhaps in its device, the rest as it was. -/
theorem settled_frame {s m : State} {c : Call} (hm : m = s.freeLink ∨ m = s.freeLink.land c) :
    m.link = none ∧ m.trace = s.trace ∧ m.sessions = s.sessions ∧ m.responses = s.responses ∧
      m.results = s.results ∧ (m.control = s.control ∨ m.control = (s.land c).control) := by
  rcases hm with rfl | rfl
  · exact ⟨rfl, rfl, rfl, rfl, rfl, .inl rfl⟩
  · cases c <;> exact ⟨rfl, rfl, rfl, rfl, rfl, .inr rfl⟩

theorem complete_linkMove {r : Reply} {s t : State} (h : complete r s = .next t) : s.LinkMove t := by
  obtain ⟨f, x, m, hl, hx, hm, ht⟩ := complete_effect h
  obtain ⟨hfree, htrace, hsessions, -⟩ := settled_frame (hm.imp_right And.right)
  have hat := State.at_of_getElem? hx
  have hmoved := State.setActivity_sessions_congr hsessions f.session
  rcases ht with ⟨res, rfl⟩ | ⟨now, next, rest, -, rfl⟩ | ⟨wait, -, rfl⟩
  · exact hat.linkMove_settle hl hfree htrace (hmoved .idle) rfl
  · exact hat.linkMove_settle hl hfree htrace (hmoved _) rfl
  · exact hat.linkMove_settle hl hfree htrace (hmoved _) rfl

theorem cancel_linkMove {k : Nat} {s t : State} (h : cancel k s = .next t) : s.LinkMove t := by
  obtain ⟨x, hx, rfl⟩ := cancel_next h
  exact .still rfl rfl ((State.at_of_getElem? hx).awaited_setActivity (Activity.awaitedCall_withCancel _ _))

/-- Every awaited call stays the one outstanding. -/
theorem State.LinkMove.suspended {s t : State} (h : s.LinkMove t) (hs : s.Suspended) : t.Suspended := by
  rw [State.suspended_iff] at hs ⊢
  intro j c hj
  cases h with
  | still hlink _ hawaited => rw [hlink, hs j c (hawaited j ▸ hj)]
  | issued k c' hfree hlink _ hself hothers =>
    by_cases hjk : j = k
    · subst hjk
      rw [hlink, Option.some.inj (hself.symm.trans hj)]
    · cases hfree.symm.trans (hs j c (hothers j hjk ▸ hj))
  | answered f hlink _ _ hself hothers =>
    by_cases hjf : j = f.session
    · subst hjf
      cases hself.symm.trans hj
    · cases hlink.symm.trans (hs j c (hothers j hjf ▸ hj))
      exact absurd rfl hjf

/-- The call outstanding stays one that its session awaits. -/
theorem State.LinkMove.outstanding_awaited {s t : State} (h : s.LinkMove t)
    (hs : ∀ f, s.link = some f → s.awaited f.session = some f.call) :
    ∀ f, t.link = some f → t.awaited f.session = some f.call := by
  intro f hf
  cases h with
  | still hlink _ hawaited => rw [hawaited, hs f (hlink ▸ hf)]
  | issued k c _ hlink _ hself _ =>
    cases hlink.symm.trans hf
    exact hself
  | answered _ _ hfree _ _ _ => cases hfree.symm.trans hf

/-- The trace stays as it is or grows by a call that a session then awaits. -/
theorem State.LinkMove.trace_cases {s t : State} (h : s.LinkMove t) :
    t.trace = s.trace ∨ ∃ k c, t.awaited k = some c ∧ t.trace = s.trace ++ [c] := by
  cases h with
  | still _ htrace _ => exact .inl htrace
  | issued k c _ _ htrace hself _ => exact .inr ⟨k, c, hself, htrace⟩
  | answered _ _ _ htrace _ _ => exact .inl htrace

end Sys2Proof.Machine
end

section
/-! SUPPORT. 10_state.md R36, 20_memory.md R52, R57: the addresses, the control registers, and the invariant every step keeps. -/

namespace Sys2Proof.Machine

open Sys2Proof

/-! ### Addresses -/

/-- Every session holds a legal address (10_state.md R36). -/
def State.AddressesLegal (s : State) : Prop :=
  ∀ x ∈ s.sessions, x.unitId.toNat ≤ Config.unitIdMax

/-- A member of a modified list was there, or is the modified one. -/
theorem mem_modify_cases {α : Type} {l : List α} {k : Nat} {f : α → α} {x : α} (h : x ∈ l.modify k f) :
    x ∈ l ∨ ∃ y ∈ l, x = f y := by
  obtain ⟨j, hj⟩ := List.mem_iff_getElem?.mp h
  rw [List.getElem?_modify, Option.map_eq_map, Option.map_eq_some_iff] at hj
  obtain ⟨y, hy, hyx⟩ := hj
  have hmem := List.mem_of_getElem? hy
  split at hyx
  · exact .inr ⟨y, hmem, hyx.symm⟩
  · exact .inl (hyx ▸ hmem)

theorem State.AddressesLegal.congr {s t : State} (h : s.AddressesLegal) (hsessions : t.sessions = s.sessions) :
    t.AddressesLegal := by
  rwa [State.AddressesLegal, hsessions]

/-- A change of position leaves every address as it is. -/
theorem State.AddressesLegal.setActivity {s : State} (h : s.AddressesLegal) (k : Nat) (a : Activity) :
    (s.setActivity k a).AddressesLegal := by
  intro x hx
  rcases mem_modify_cases hx with hx | ⟨y, hy, rfl⟩
  · exact h x hx
  · exact h y hy

/-- The setter rejects an address above 247 and assigns any other (42_host_sequences.md R131). -/
theorem State.AddressesLegal.setDeviceAddress {s : State} (h : s.AddressesLegal) (k : Nat) (a : Byte) :
    (s.setDeviceAddress k a).AddressesLegal := by
  simp only [State.setDeviceAddress]
  split
  · exact h.setActivity k .idle
  · next ha =>
    refine State.AddressesLegal.setActivity (fun x hx => ?_) k .idle
    rcases mem_modify_cases hx with hx | ⟨y, -, rfl⟩
    · exact h x hx
    · exact not_lt.mp ha

theorem Session.fresh_address_legal : Session.fresh.unitId.toNat ≤ Config.unitIdMax := by
  have := Config.unitIdInit.isLt
  simp only [Session.fresh, Config.unitIdMax, BitVec.toNat_ofNat]
  omega

theorem State.AddressesLegal.openSession {s : State} (h : s.AddressesLegal) : s.openSession.AddressesLegal := by
  intro x hx
  rcases List.mem_append.mp hx with hx | hx
  · exact h x hx
  · rw [List.mem_singleton.mp hx]
    exact Session.fresh_address_legal

/-- What is awaited by a session at a legal address is in the register map. -/
theorem State.AddressesLegal.mapped_of_awaited {s : State} (h : s.AddressesLegal) {k : Nat} {c : Call}
    (hc : s.awaited k = some c) : c.Mapped := by
  obtain ⟨x, hx, hxc⟩ := State.awaited_eq_some.mp hc
  exact Session.awaitedCall_mapped (h x (List.mem_of_getElem? hx)) hxc

/-! ### The control registers -/

/-- Only named registers of legal devices are listed (20_memory.md R52). -/
def State.ControlMapped (s : State) : Prop :=
  ∀ cell ∈ s.control, MappedKey cell.1

theorem State.ControlMapped.of_write {s t : State} (h : s.ControlMapped) {key : Nat} {w : Word} (hkey : MappedKey key)
    (ht : t.control = Memory.write s.control key w) : t.ControlMapped := by
  intro cell hcell
  rcases Memory.mem_write (ht ▸ hcell) with rfl | hcell
  · exact hkey
  · exact h cell hcell

/-- A call of the register map writes at most the key of one named register. -/
theorem State.ControlMapped.land {s : State} (h : s.ControlMapped) {c : Call} (hc : c.Mapped) :
    (s.land c).ControlMapped := by
  obtain ⟨u, hu, ⟨w, rfl⟩ | ⟨r, rfl⟩⟩ := hc
  · exact h.of_write ⟨u, hu, w.register, rfl⟩ rfl
  · exact h

theorem State.ControlMapped.deviceChange {s : State} (h : s.ControlMapped) (c : DeviceChange) :
    (s.deviceChange c).ControlMapped := by
  refine h.of_write ⟨_, ?_, c.register, rfl⟩ rfl
  have := c.unit.isLt
  simp only [Config.unitIdMax, BitVec.toNat_ofNat]
  omega

/-! ### The invariant -/

theorem State.Inv.outstanding_awaited {s : State} (h : s.Inv) :
    ∀ f, s.link = some f → s.awaited f.session = some f.call :=
  fun f hf => State.awaited_eq_some.mpr (h.linkMatches f hf)

/-- A move of the link keeps the invariant when the addresses stay legal and the control registers in order. -/
theorem State.Inv.of_linkMove {s t : State} (h : s.Inv) (hmove : s.LinkMove t) (haddresses : t.AddressesLegal)
    (hwf : Memory.wf t.control = true) (hmapped : t.ControlMapped) : t.Inv where
  legalAddresses := haddresses
  linkMatches f hf := State.awaited_eq_some.mp (hmove.outstanding_awaited h.outstanding_awaited f hf)
  suspended := hmove.suspended h.suspended
  traceMapped := by
    rcases hmove.trace_cases with htrace | ⟨k, c, hc, htrace⟩ <;> rw [htrace]
    · exact h.traceMapped
    · exact List.forall_mem_append.mpr
        ⟨h.traceMapped, List.forall_mem_singleton.mpr (haddresses.mapped_of_awaited hc)⟩
  controlWf := hwf
  controlMapped := hmapped

/-- A move of the link that leaves the control registers alone. -/
theorem State.Inv.of_linkMove_control_eq {s t : State} (h : s.Inv) (hmove : s.LinkMove t)
    (haddresses : t.AddressesLegal) (hcontrol : t.control = s.control) : t.Inv :=
  h.of_linkMove hmove haddresses (hcontrol ▸ h.controlWf) (by rw [State.ControlMapped, hcontrol]; exact h.controlMapped)

theorem invoke_inv {k : Nat} {op : SessionOp} {s t : State} (hs : s.Inv) (h : invoke k op s = .next t) : t.Inv := by
  have hmove := invoke_linkMove h
  have hlegal : s.AddressesLegal := hs.legalAddresses
  obtain ⟨u, -, -, rfl⟩ := invoke_next h
  rcases s.begin_cases k u op with ⟨a, -, ht⟩ | ⟨a, c, -, ht⟩ <;> rw [ht] at hmove ⊢
  · obtain ⟨res, hframe⟩ := s.setDeviceAddress_frame k a
    exact hs.of_linkMove_control_eq hmove (hlegal.setDeviceAddress k a) (by rw [hframe])
  · exact hs.of_linkMove_control_eq hmove (hlegal.setActivity k a) rfl

theorem resume_inv {k : Nat} {s t : State} (hs : s.Inv) (h : resume k s = .next t) : t.Inv := by
  have hmove := resume_linkMove h
  have hlegal : s.AddressesLegal := hs.legalAddresses
  obtain ⟨-, u, a, b, c, m, -, -, -, rfl | ⟨wakeTime, rfl⟩, rfl⟩ := resume_effect h
  · exact hs.of_linkMove_control_eq hmove (hlegal.setActivity k b) rfl
  · exact hs.of_linkMove_control_eq hmove (hlegal.setActivity k b) rfl

theorem complete_inv {r : Reply} {s t : State} (hs : s.Inv) (h : complete r s = .next t) : t.Inv := by
  have hmove := complete_linkMove h
  have hlegal : s.AddressesLegal := hs.legalAddresses
  obtain ⟨f, x, m, hl, -, hm, ht⟩ := complete_effect h
  obtain ⟨-, -, hsessions, -, -, hcontrol⟩ := settled_frame (hm.imp_right And.right)
  have haddresses (a : Activity) : (m.setActivity f.session a).AddressesLegal :=
    (hlegal.congr hsessions).setActivity f.session a
  have hcall : f.call.Mapped := hlegal.mapped_of_awaited (hs.outstanding_awaited f hl)
  have hwf : Memory.wf m.control = true := by
    rcases hcontrol with hc | hc <;> rw [hc]
    · exact hs.controlWf
    · exact State.land_wf hs.controlWf f.call
  have hmapped : m.ControlMapped := by
    rcases hcontrol with hc | hc <;> rw [State.ControlMapped, hc]
    · exact hs.controlMapped
    · exact State.ControlMapped.land hs.controlMapped hcall
  rcases ht with ⟨res, rfl⟩ | ⟨now, next, rest, -, rfl⟩ | ⟨wait, -, rfl⟩
  · exact hs.of_linkMove hmove (haddresses .idle) hwf hmapped
  · exact hs.of_linkMove hmove (haddresses _) hwf hmapped
  · exact hs.of_linkMove hmove (haddresses _) hwf hmapped

theorem cancel_inv {k : Nat} {s t : State} (hs : s.Inv) (h : cancel k s = .next t) : t.Inv := by
  have hmove := cancel_linkMove h
  obtain ⟨x, -, rfl⟩ := cancel_next h
  exact hs.of_linkMove_control_eq hmove (State.AddressesLegal.setActivity hs.legalAddresses k _) rfl

theorem State.Inv.openSession {s : State} (h : s.Inv) : s.openSession.Inv :=
  h.of_linkMove_control_eq (.still rfl rfl s.awaited_openSession) (State.AddressesLegal.openSession h.legalAddresses) rfl

theorem State.Inv.deviceChange {s : State} (h : s.Inv) (c : DeviceChange) : (s.deviceChange c).Inv :=
  h.of_linkMove (.still rfl rfl fun _ => rfl) h.legalAddresses (State.deviceChange_wf h.controlWf c)
    (State.ControlMapped.deviceChange h.controlMapped c)

/-- Inputs, responses, results and time have no part in the invariant. -/
theorem State.Inv.congr {s t : State} (h : s.Inv) (hsessions : t.sessions = s.sessions) (hlink : t.link = s.link)
    (htrace : t.trace = s.trace) (hcontrol : t.control = s.control) : t.Inv :=
  h.of_linkMove_control_eq (.still hlink htrace (State.awaited_congr hsessions))
    (State.AddressesLegal.congr h.legalAddresses hsessions) hcontrol

/-- Settles O59, by what each input does to the state without it. -/
theorem stepKeepsTheInvariant : Obligations.StepKeepsTheInvariant := by
  intro s t hs h
  have htaken (es : List Event) : State.Inv { s with events := es } := hs.congr rfl rfl rfl rfl
  rcases step_next h with ⟨-, rfl⟩ | ⟨_, _, rest, -, rfl⟩ | ⟨rest, -, rfl⟩ | ⟨_, _, rest, -, ht⟩ | ⟨_, rest, -, ht⟩ |
    ⟨_, rest, -, ht⟩ | ⟨_, rest, -, ht⟩ | ⟨_, rest, -, rfl⟩ | ⟨c, rest, -, rfl⟩
  · exact hs
  · exact hs.congr rfl rfl rfl rfl
  · exact (htaken rest).openSession
  · exact invoke_inv (htaken rest) ht
  · exact resume_inv (htaken rest) ht
  · exact complete_inv (htaken rest) ht
  · exact cancel_inv (htaken rest) ht
  · exact hs.congr rfl rfl rfl rfl
  · exact (htaken rest).deviceChange c

end Sys2Proof.Machine
end

section
/-! SUPPORT. 10_state.md R20, R24: what the block answers depends on the ports its operation uses and on nothing else. -/

namespace Sys2Proof.Machine

open Sys2Proof

/-- Requests that select one operation and agree on its ports decode to one instruction (10_state.md R24): one case for each
encoder, and the five decoders alike, which use `word`. -/
theorem decodeRequest_congr {r r' : Request} (hop : r.op = r'.op) (hcommand : r.op = 0#3 → r.command = r'.command)
    (hposition : r.op = 1#3 → r.position = r'.position)
    (hpair : r.op = 2#3 → r.speed = r'.speed ∧ r.force = r'.force) (hword : 3 ≤ r.op.toNat → r.word = r'.word) :
    decodeRequest r = decodeRequest r' := by
  have hcodes : ∀ n : BitVec 3, n = 0 ∨ n = 1 ∨ n = 2 ∨ n = 3 ∨ n = 4 ∨ n = 5 ∨ n = 6 ∨ n = 7 := by decide
  rcases hcodes r.op with h | h | h | h
  · simp [decodeRequest, ← hop, h, hcommand h]
  · simp [decodeRequest, ← hop, h, hposition h]
  · simp [decodeRequest, ← hop, h, hpair h]
  · rcases h with h | h | h | h | h <;> simp [decodeRequest, ← hop, h, hword (by simp [h])]

/-- Settles O17: the step decodes the request and sees nothing else of it. -/
theorem unusedPortsDoNotMatter : Obligations.UnusedPortsDoNotMatter := by
  intro r r' s hop hcommand hposition hpair hword
  rw [step_feed_request, step_feed_request, decodeRequest_congr hop hcommand hposition hpair hword]

/-- A run of requests answers one response to each, when `f` gives the response of each request's instruction. -/
theorem run_feed_requests {f : Request → Response}
    (hf : ∀ (r : Request) (s : State), exec (decodeRequest r) s = answer (f r) s) (rs : List Request) (s : State) :
    run rs.length (s.feed (rs.map .request)) = .next { s with responses := s.responses ++ rs.map f } := by
  induction rs generalizing s with
  | nil => simp
  | cons r rs ih =>
    have hstep : step (s.feed ((r :: rs).map .request)) = .next ((s.deliver (f r)).feed (rs.map .request)) :=
      hf r (s.feed (rs.map .request))
    rw [List.length_cons, run_succ_of_next hstep, ih (s.deliver (f r))]
    simp [State.deliver]

/-- Settles O18, by induction on the requests: the response to an instruction has no part of the state in it. -/
theorem responsesDependOnRequestsAlone : Obligations.ResponsesDependOnRequestsAlone := by
  choose f hf using fun r : Request => exec_is_answer (decodeRequest r)
  exact ⟨f, run_feed_requests hf⟩

end Sys2Proof.Machine
end

section
/-! SUPPORT. 10_state.md R37, 20_memory.md R63: the responses, the results and the trace only grow. -/

namespace Sys2Proof.Machine

open Sys2Proof

/-- `t` keeps the responses, the results and the trace of `s` and may add at their ends. -/
def State.GrowsTo (s t : State) : Prop :=
  (∃ l, t.responses = s.responses ++ l) ∧ (∃ l, t.results = s.results ++ l) ∧ ∃ l, t.trace = s.trace ++ l

/-- A move on the link adds at most a call to the trace. -/
theorem State.LinkMove.growsTo {s t : State} (h : s.LinkMove t) (hresponses : t.responses = s.responses)
    (hresults : t.results = s.results ∨ ∃ k res, t.results = s.results ++ [(k, res)]) : s.GrowsTo t := by
  refine ⟨⟨[], by simpa using hresponses⟩, ?_, ?_⟩
  · rcases hresults with hresults | ⟨k, res, hresults⟩
    · exact ⟨[], by simpa using hresults⟩
    · exact ⟨_, hresults⟩
  · rcases h.trace_cases with htrace | ⟨k, c, -, htrace⟩
    · exact ⟨[], by simpa using htrace⟩
    · exact ⟨_, htrace⟩

theorem State.GrowsTo.refl (s : State) : s.GrowsTo s :=
  State.LinkMove.growsTo (.still rfl rfl fun _ => rfl) rfl (.inl rfl)

theorem State.growsTo_deliver (s : State) (r : Response) : s.GrowsTo (s.deliver r) :=
  ⟨⟨[r], rfl⟩, (State.GrowsTo.refl s).2⟩

theorem invoke_growsTo {k : Nat} {op : SessionOp} {s t : State} (h : invoke k op s = .next t) : s.GrowsTo t := by
  have hmove := invoke_linkMove h
  obtain ⟨u, -, -, rfl⟩ := invoke_next h
  rcases s.begin_cases k u op with ⟨a, -, ht⟩ | ⟨a, c, -, ht⟩ <;> rw [ht] at hmove ⊢
  · obtain ⟨res, hframe⟩ := s.setDeviceAddress_frame k a
    exact hmove.growsTo (by rw [hframe]) (.inr ⟨k, res, by rw [hframe]⟩)
  · exact hmove.growsTo rfl (.inl rfl)

theorem resume_growsTo {k : Nat} {s t : State} (h : resume k s = .next t) : s.GrowsTo t := by
  have hmove := resume_linkMove h
  obtain ⟨-, u, a, b, c, m, -, -, -, rfl | ⟨wakeTime, rfl⟩, rfl⟩ := resume_effect h
  · exact hmove.growsTo rfl (.inl rfl)
  · exact hmove.growsTo rfl (.inl rfl)

theorem complete_growsTo {r : Reply} {s t : State} (h : complete r s = .next t) : s.GrowsTo t := by
  have hmove := complete_linkMove h
  obtain ⟨f, x, m, -, -, hm, ht⟩ := complete_effect h
  obtain ⟨-, -, -, hresponses, hresults, -⟩ := settled_frame (hm.imp_right And.right)
  rcases ht with ⟨res, rfl⟩ | ⟨now, next, rest, -, rfl⟩ | ⟨wait, -, rfl⟩
  · exact hmove.growsTo hresponses (.inr ⟨f.session, res, by rw [State.finish_results, hresults]⟩)
  · exact hmove.growsTo hresponses (.inl hresults)
  · exact hmove.growsTo hresponses (.inl hresults)

theorem cancel_growsTo {k : Nat} {s t : State} (h : cancel k s = .next t) : s.GrowsTo t := by
  obtain ⟨x, -, rfl⟩ := cancel_next h
  exact State.GrowsTo.refl s

/-- Settles O53, by what each input adds to the records. -/
theorem recordsOnlyGrow : Obligations.RecordsOnlyGrow := by
  intro s t h
  have hsame : s.GrowsTo s := State.GrowsTo.refl s
  rcases step_next h with ⟨-, rfl⟩ | ⟨_, resp, _, -, rfl⟩ | ⟨_, -, rfl⟩ | ⟨_, _, _, -, ht⟩ | ⟨_, _, -, ht⟩ |
    ⟨_, _, -, ht⟩ | ⟨_, _, -, ht⟩ | ⟨_, _, -, rfl⟩ | ⟨_, _, -, rfl⟩
  · exact hsame
  · exact s.growsTo_deliver resp
  · exact hsame
  · exact (invoke_growsTo ht :)
  · exact (resume_growsTo ht :)
  · exact (complete_growsTo ht :)
  · exact (cancel_growsTo ht :)
  · exact hsame
  · exact hsame

end Sys2Proof.Machine
end

section
/-! SUPPORT. 20_memory.md R52, R53, R60, R63: the addresses of the register map, when a call goes out, and what changes a
control register. -/

namespace Sys2Proof.Machine

open Sys2Proof

/-! ### The register map -/

/-- The bound of CONTROL_BASE (00_scope.md R7) leaves room for the offsets. -/
theorem ControlRegister.address_toNat (r : ControlRegister) :
    r.address.toNat = Config.controlBase.val + r.offset := by
  have hbase := Config.controlBase.isLt
  have hoffset : r.offset ≤ 2 := by cases r <;> decide
  rw [ControlRegister.address, BitVec.toNat_ofNat, Nat.mod_eq_of_lt (by omega)]

/-- The bound of INPUT_BASE (00_scope.md R7) leaves room for the offsets. -/
theorem StatusRegister.address_toNat (r : StatusRegister) : r.address.toNat = Config.inputBase.val + r.offset := by
  have hbase := Config.inputBase.isLt
  have hoffset : r.offset ≤ 4 := by cases r <;> decide
  rw [StatusRegister.address, BitVec.toNat_ofNat, Nat.mod_eq_of_lt (by omega)]

theorem StatusRegister.offset_inj {r r' : StatusRegister} (h : r.offset = r'.offset) : r = r' := by
  revert h
  cases r <;> cases r' <;> decide

/-- Two status registers never share an address. -/
theorem StatusRegister.address_inj {r r' : StatusRegister} (h : r.address = r'.address) : r = r' := by
  have hsum := congrArg BitVec.toNat h
  rw [r.address_toNat, r'.address_toNat] at hsum
  exact StatusRegister.offset_inj (Nat.add_left_cancel hsum)

/-- Settles O27: an address is its base plus its offset as numbers, so addresses differ as offsets do. -/
theorem registerMapAddresses : Obligations.RegisterMapAddresses := by
  refine ⟨⟨?_, ?_, ?_⟩, ⟨?_, ?_, ?_, ?_, ?_⟩, ?_, fun _ _ => StatusRegister.address_inj, ?_⟩
  · exact ControlRegister.address_toNat .control
  · exact ControlRegister.address_toNat .position
  · exact ControlRegister.address_toNat .speedForce
  · exact StatusRegister.address_toNat .status
  · exact StatusRegister.address_toNat .faultPosition
  · exact StatusRegister.address_toNat .speedForce
  · exact StatusRegister.address_toNat .voltageTemperature
  · exact StatusRegister.address_toNat .softwareInfo
  · exact fun _ _ h => not_not.mp fun hne => ControlRegister.address_ne hne h
  · intro r
    cases r <;> rfl

/-! ### When a call goes out -/

/-- From `s`, where no call is outstanding, session `k` issues one call, which is outstanding in `t`. -/
def State.Issues (s t : State) (k : Nat) : Prop :=
  ∃ c, s.link = none ∧ t.link = some { session := k, call := c } ∧ t.trace = s.trace ++ [c]

/-- The setter of the address makes no call; every other operation issues its first. -/
theorem invoke_trace {k : Nat} {op : SessionOp} {s t : State} (h : invoke k op s = .next t) :
    t.trace = s.trace ∨ s.Issues t k := by
  obtain ⟨u, -, hl, rfl⟩ := invoke_next h
  rcases s.begin_cases k u op with ⟨a, -, ht⟩ | ⟨a, c, -, ht⟩ <;> rw [ht]
  · obtain ⟨res, hframe⟩ := s.setDeviceAddress_frame k a
    exact .inl (by rw [hframe])
  · exact .inr ⟨c, hl, rfl, rfl⟩

theorem resume_issues {k : Nat} {s t : State} (h : resume k s = .next t) : s.Issues t k := by
  obtain ⟨hl, u, a, b, c, m, -, -, -, rfl | ⟨wakeTime, rfl⟩, rfl⟩ := resume_effect h
  · exact ⟨c, hl, rfl, rfl⟩
  · exact ⟨c, hl, rfl, rfl⟩

/-- An answer issues no call: what follows it goes out when the session goes on. -/
theorem complete_trace {r : Reply} {s t : State} (h : complete r s = .next t) : t.trace = s.trace := by
  obtain ⟨f, x, m, -, -, hm, ht⟩ := complete_effect h
  obtain ⟨-, htrace, -⟩ := settled_frame (hm.imp_right And.right)
  rcases ht with ⟨res, rfl⟩ | ⟨now, next, rest, -, rfl⟩ | ⟨wait, -, rfl⟩
  · exact htrace
  · exact htrace
  · exact htrace

/-- Settles O52: only a start and a going on issue a call, and both on a free link. -/
theorem callsGoOutOneAtATime : Obligations.CallsGoOutOneAtATime := by
  intro s t h
  rcases step_next h with ⟨-, rfl⟩ | ⟨_, _, _, -, rfl⟩ | ⟨_, -, rfl⟩ | ⟨k, op, rest, he, ht⟩ | ⟨k, rest, he, ht⟩ |
    ⟨_, _, -, ht⟩ | ⟨_, _, -, ht⟩ | ⟨_, _, -, rfl⟩ | ⟨_, _, -, rfl⟩
  · exact .inl rfl
  · exact .inl rfl
  · exact .inl rfl
  · rcases invoke_trace ht with htrace | ⟨c, hfree, hlink, htrace⟩
    · exact .inl htrace
    · exact .inr ⟨k, c, rest, hlink, htrace, hfree, .inl ⟨op, he⟩⟩
  · obtain ⟨c, hfree, hlink, htrace⟩ := resume_issues ht
    exact .inr ⟨k, c, rest, hlink, htrace, hfree, .inr he⟩
  · exact .inl (complete_trace ht :)
  · obtain ⟨x, -, rfl⟩ := cancel_next ht
    exact .inl rfl
  · exact .inl rfl
  · exact .inl rfl

/-! ### What changes a control register -/

theorem invoke_control {k : Nat} {op : SessionOp} {s t : State} (h : invoke k op s = .next t) :
    t.control = s.control := by
  obtain ⟨u, -, -, rfl⟩ := invoke_next h
  rcases s.begin_cases k u op with ⟨a, -, ht⟩ | ⟨a, c, -, ht⟩ <;> rw [ht]
  · obtain ⟨res, hframe⟩ := s.setDeviceAddress_frame k a
    rw [hframe]
  · rfl

theorem resume_control {k : Nat} {s t : State} (h : resume k s = .next t) : t.control = s.control := by
  obtain ⟨-, u, a, b, c, m, -, -, -, rfl | ⟨wakeTime, rfl⟩, rfl⟩ := resume_effect h
  · rfl
  · rfl

theorem cancel_control {k : Nat} {s t : State} (h : cancel k s = .next t) : t.control = s.control := by
  obtain ⟨x, -, rfl⟩ := cancel_next h
  rfl

/-- An answer changes the control registers at most by the outstanding call reaching its device. -/
theorem complete_control {r : Reply} {s t : State} (h : complete r s = .next t) :
    t.control = s.control ∨ ∃ f, s.link = some f ∧ t.control = (s.land f.call).control := by
  obtain ⟨f, x, m, hl, -, hm, ht⟩ := complete_effect h
  obtain ⟨-, -, -, -, -, hcontrol⟩ := settled_frame (hm.imp_right And.right)
  have htm : t.control = m.control := by
    rcases ht with ⟨res, rfl⟩ | ⟨now, next, rest, -, rfl⟩ | ⟨wait, -, rfl⟩
    · rfl
    · rfl
    · rfl
  exact hcontrol.imp htm.trans fun hc => ⟨f, hl, htm.trans hc⟩

theorem State.land_control_congr {s t : State} (h : t.control = s.control) (c : Call) :
    (t.land c).control = (s.land c).control := by
  cases c with
  | readInput => exact h
  | writeRegs u a ws => rw [State.land_writeRegs_control, State.land_writeRegs_control, h]

/-- What a step does to the control registers: nothing; or it takes an answer, and the outstanding call reaches its device; or a
device changes one. -/
theorem step_control {s t : State} (h : step s = .next t) :
    t.control = s.control ∨
    (∃ f r rest, s.link = some f ∧ s.events = .reply r :: rest ∧ t.control = (s.land f.call).control) ∨
    (∃ c rest, s.events = .deviceChange c :: rest ∧ t.control = (s.deviceChange c).control) := by
  rcases step_next h with ⟨-, rfl⟩ | ⟨_, _, _, -, rfl⟩ | ⟨_, -, rfl⟩ | ⟨_, _, _, -, ht⟩ | ⟨_, _, -, ht⟩ |
    ⟨r, rest, he, ht⟩ | ⟨_, _, -, ht⟩ | ⟨_, _, -, rfl⟩ | ⟨c, rest, he, rfl⟩
  · exact .inl rfl
  · exact .inl rfl
  · exact .inl rfl
  · exact .inl (invoke_control ht :)
  · exact .inl (resume_control ht :)
  · rcases complete_control ht with hc | ⟨f, hl, hc⟩
    · exact .inl hc
    · have hland := State.land_control_congr (s := s) (t := { s with events := rest }) rfl f.call
      exact .inr (.inl ⟨f, r, rest, hl, he, hc.trans hland⟩)
  · exact .inl (cancel_control ht :)
  · exact .inl rfl
  · exact .inr (.inr ⟨c, rest, he, rfl⟩)

theorem State.controlWord_congr {s t : State} (h : t.control = s.control) (u : Byte) (a : Word) :
    t.controlWord u a = s.controlWord u a := by
  rw [State.controlWord, State.controlWord, h]

/-- A call that reaches its device changes a register only if it is a write whose words take in that register's key. -/
theorem State.controlWord_land_ne {s : State} {c : Call} {u : Byte} {a : Word}
    (h : (s.land c).controlWord u a ≠ s.controlWord u a) :
    ∃ v start values i, c = .writeRegs v start values ∧ i < values.length ∧
      controlKey u a = controlKey v start + i := by
  cases c with
  | readInput => exact absurd rfl h
  | writeRegs v start values =>
    by_contra hkeys
    refine h ?_
    rw [State.controlWord, State.land_writeRegs_control, Memory.read_writeRun_other, State.controlWord]
    exact fun i hi hk => hkeys ⟨v, start, values, i, rfl, hi, hk⟩

/-- A change by a device that comes next is taken in every state. -/
theorem step_feed_deviceChange (s : State) (c : DeviceChange) :
    step (s.feed [.deviceChange c]) = .next (s.deviceChange c) := rfl

/-- Settles O54: the change of one register by its device, and what a step can do to the control registers. -/
theorem controlRegistersChangeByWriteOrDevice : Obligations.ControlRegistersChangeByWriteOrDevice := by
  refine ⟨fun s c => ⟨_, step_feed_deviceChange s c, rfl, s.controlWord_deviceChange c⟩, ?_⟩
  intro s t u a h hne
  rcases step_control h with hc | ⟨f, r, rest, hl, he, hc⟩ | ⟨c, rest, he, hc⟩
  · exact absurd (State.controlWord_congr hc u a) hne
  · rw [State.controlWord_congr hc] at hne
    obtain ⟨v, start, values, i, hcall, hi, hkey⟩ := State.controlWord_land_ne hne
    exact .inl ⟨f.session, i, v, start, values, r, rest, hcall ▸ hl, he, hi, hkey⟩
  · rw [State.controlWord_congr hc, State.controlWord_deviceChange] at hne
    obtain ⟨hu, ha⟩ := (ite_ne_right_iff.mp hne).1
    exact .inr ⟨c, rest, he, hu, ha⟩

end Sys2Proof.Machine
end

section
/-! SUPPORT. 30_encoding.md R71, R80, R87 to R90: requests and their seven bytes, instructions and their requests, the step
that runs what the decoder reads, and what DEC_STATUS reads in a control word. -/

namespace Sys2Proof.Machine

open Sys2Proof

/-! ### A request and its seven bytes -/

@[simp] theorem Request.ofBytes_toBytes (r : Request) : Request.ofBytes r.toBytes = .ok r := by
  simp only [Request.toBytes, Request.ofBytes, BitVec.extractLsb'_append_eq_right, BitVec.getLsbD_append, joinBytes_parts]
  simp

/-- The first byte is `op` below the five flags of the `c_` ports. -/
theorem firstByte_of_ports (b : Byte) :
    BitVec.ofBool (b.getLsbD 7) ++ BitVec.ofBool (b.getLsbD 6) ++ BitVec.ofBool (b.getLsbD 5) ++
      BitVec.ofBool (b.getLsbD 4) ++ BitVec.ofBool (b.getLsbD 3) ++ b.extractLsb' 0 3 = b := by
  apply BitVec.eq_of_getLsbD_eq
  intro i hi
  simp only [BitVec.getLsbD_append, BitVec.getLsbD_extractLsb', BitVec.getLsbD_ofBool]
  interval_cases i <;> simp

/-- Bytes that carry a request are the bytes written for it: the ports cover all 56 bits. -/
theorem Request.toBytes_of_ofBytes {bytes : List Byte} {r : Request} (h : Request.ofBytes bytes = .ok r) :
    r.toBytes = bytes := by
  unfold Request.ofBytes at h
  split at h
  · next b0 b1 b2 b3 b4 b5 b6 =>
    cases h
    simp only [Request.toBytes, firstByte_of_ports, lowPart_joinBytes, highPart_joinBytes]
  · cases h

theorem Request.length_toBytes (r : Request) : r.toBytes.length = requestBytes := rfl

theorem Request.exists_ofBytes {bytes : List Byte} (h : bytes.length = requestBytes) :
    ∃ r, Request.ofBytes bytes = .ok r :=
  match bytes, h with
  | [_, _, _, _, _, _, _], _ => ⟨_, rfl⟩

theorem Request.ofBytes_of_length_ne {bytes : List Byte} (h : bytes.length ≠ requestBytes) :
    Request.ofBytes bytes =
      .error (if bytes.length < requestBytes then .tooShort bytes.length else .tooLong bytes.length) := by
  unfold Request.ofBytes
  split
  · exact absurd rfl h
  · rfl

/-! ### The decoder over bytes -/

theorem decode_of_ofBytes {bytes : List Byte} {r : Request} (h : Request.ofBytes bytes = .ok r) :
    decode bytes = .ok (decodeRequest r) := by
  rw [decode, h, Except.map]

theorem decode_eq_ok_iff {bytes : List Byte} {i : Instr} :
    decode bytes = .ok i ↔ ∃ r, Request.ofBytes bytes = .ok r ∧ decodeRequest r = i := by
  cases hr : Request.ofBytes bytes with
  | ok r => simp [decode_of_ofBytes hr]
  | error e => simp [decode, hr, Except.map]

theorem decode_of_length_ne {bytes : List Byte} (h : bytes.length ≠ requestBytes) :
    decode bytes = .error (if bytes.length < requestBytes then .tooShort bytes.length else .tooLong bytes.length) := by
  rw [decode, Request.ofBytes_of_length_ne h, Except.map]

theorem length_of_decode {bytes : List Byte} {i : Instr} (h : decode bytes = .ok i) : bytes.length = requestBytes := by
  obtain ⟨r, hr, -⟩ := decode_eq_ok_iff.mp h
  rw [← Request.toBytes_of_ofBytes hr, Request.length_toBytes]

/-- Settles O22: the ports are read from seven bytes, and the length alone tells why others are no request. -/
theorem decodeIsTotalOnSevenBytes : Obligations.DecodeIsTotalOnSevenBytes := by
  intro bytes
  refine ⟨⟨fun ⟨i, hi⟩ => length_of_decode hi, fun hlength => ?_⟩, fun hshort => ?_, fun hlong => ?_⟩
  · obtain ⟨r, hr⟩ := Request.exists_ofBytes hlength
    exact ⟨_, decode_of_ofBytes hr⟩
  · exact (decode_of_length_ne hshort.ne).trans (congrArg _ (if_pos hshort))
  · exact (decode_of_length_ne hlong.ne').trans (congrArg _ (if_neg hlong.not_gt))

/-! ### An instruction and its request -/

/-- Settles O19: the three bits of each code pick one arm of the decoder. -/
theorem opSelectsTheOperation : Obligations.OpSelectsTheOperation := by
  intro r
  refine ⟨?_, ?_, ?_, ?_, ?_, ?_, ?_, ?_⟩ <;> intro hop <;> simp [decodeRequest, hop]

/-- Decoding the ports an instruction is presented on gives it back: its code selects its arm, which reads its operands. -/
@[simp] theorem decodeRequest_encodeRequest (i : Instr) : decodeRequest (encodeRequest i) = i := by
  cases i <;> simp [encodeRequest, opcode, decodeRequest, Request.command]

/-- Settles O20: the bytes carry the request, and the request carries the instruction. -/
theorem decodeOfEncode : Obligations.DecodeOfEncode := by
  intro i _
  calc decode (encode i)
      = .ok (decodeRequest (encodeRequest i)) := decode_of_ofBytes (Request.ofBytes_toBytes _)
    _ = .ok i := by rw [decodeRequest_encodeRequest]

/-! A request with quiet unused ports is rebuilt from the ports its operation uses (10_state.md R24): one lemma for each
encoder, and one for the five decoders, which use `word`. -/

theorem Request.encControl_of_canonical {r : Request} (h : r.canonical = true) (hop : r.op = 0#3) :
    encodeRequest (.encControl r.command) = r := by
  obtain ⟨op, e, m, t, er, rd, position, speed, force, word⟩ := r
  simp_all [Request.canonical, Request.command, encodeRequest, opcode, Request.quiet]

theorem Request.encPosition_of_canonical {r : Request} (h : r.canonical = true) (hop : r.op = 1#3) :
    encodeRequest (.encPosition r.position) = r := by
  obtain ⟨op, e, m, t, er, rd, position, speed, force, word⟩ := r
  simp_all [Request.canonical, Request.command, ControlCommand.allFalse, encodeRequest, opcode, Request.quiet]

theorem Request.encSpeedForce_of_canonical {r : Request} (h : r.canonical = true) (hop : r.op = 2#3) :
    encodeRequest (.encSpeedForce r.speed r.force) = r := by
  obtain ⟨op, e, m, t, er, rd, position, speed, force, word⟩ := r
  simp_all [Request.canonical, Request.command, ControlCommand.allFalse, encodeRequest, opcode, Request.quiet]

theorem Request.word_of_canonical {r : Request} {n : BitVec 3} (h : r.canonical = true) (hop : r.op = n)
    (hn : 3 ≤ n.toNat) : { Request.quiet with op := n, word := r.word } = r := by
  obtain ⟨op, e, m, t, er, rd, position, speed, force, word⟩ := r
  have hne : n ≠ 0 ∧ n ≠ 1 ∧ n ≠ 2 := by refine ⟨?_, ?_, ?_⟩ <;> rintro rfl <;> simp at hn
  simp_all [Request.canonical, Request.command, ControlCommand.allFalse, Request.quiet]

/-- The eight codes on `op`, all assigned (30_encoding.md R80, R87). -/
theorem op_cases (n : BitVec 3) : n = 0 ∨ n = 1 ∨ n = 2 ∨ n = 3 ∨ n = 4 ∨ n = 5 ∨ n = 6 ∨ n = 7 := by
  revert n
  decide

/-- A request with quiet unused ports is the one that presents the instruction it selects. -/
theorem encodeRequest_decodeRequest {r : Request} (h : r.canonical = true) : encodeRequest (decodeRequest r) = r := by
  obtain ⟨h0, h1, h2, h3, h4, h5, h6, h7⟩ := opSelectsTheOperation r
  rcases op_cases r.op with hop | hop | hop | hop | hop | hop | hop | hop
  · rw [h0 hop, Request.encControl_of_canonical h hop]
  · rw [h1 hop, Request.encPosition_of_canonical h hop]
  · rw [h2 hop, Request.encSpeedForce_of_canonical h hop]
  · rw [h3 hop]; exact Request.word_of_canonical (n := 3) h hop (by decide)
  · rw [h4 hop]; exact Request.word_of_canonical (n := 4) h hop (by decide)
  · rw [h5 hop]; exact Request.word_of_canonical (n := 5) h hop (by decide)
  · rw [h6 hop]; exact Request.word_of_canonical (n := 6) h hop (by decide)
  · rw [h7 hop]; exact Request.word_of_canonical (n := 7) h hop (by decide)

/-- Settles O21: the bytes carry a quiet request, which is the one written for the instruction it selects. -/
theorem encodeOfDecode : Obligations.EncodeOfDecode := by
  intro bytes r hbytes hquiet
  refine ⟨decodeRequest r, decode_of_ofBytes hbytes, ?_⟩
  calc encode (decodeRequest r)
      = r.toBytes := by rw [encode, encodeRequest_decodeRequest hquiet]
    _ = bytes := Request.toBytes_of_ofBytes hbytes

/-! ### Table words and the step that runs them -/

theorem decodeTableWord_eq_some_iff {nbits w : Nat} {i : Instr} :
    decodeTableWord nbits w = some i ↔ decode (tableWordBytes nbits w) = .ok i := by
  unfold decodeTableWord
  cases decode (tableWordBytes nbits w) <;> simp [Except.toOption]

/-- Settles O23, by evaluation of the six words. -/
theorem wordsDecodeToTheirOperations : Obligations.WordsDecodeToTheirOperations := by
  unfold Obligations.WordsDecodeToTheirOperations
  decide

theorem step_of_events_request {s : State} {r : Request} {rest : List Event} (h : s.events = .request r :: rest) :
    step s = exec (decodeRequest r) { s with events := rest } := by
  rw [step, h]

/-- Settles O24: the step decodes the ports, the bytes carry them. -/
theorem stepRunsTheDecodedInstruction : Obligations.StepRunsTheDecodedInstruction := by
  intro s bytes r i rest hevents hbytes hdecode _
  have hi : decodeRequest r = i := Except.ok.inj ((decode_of_ofBytes hbytes).symm.trans hdecode)
  rw [step_of_events_request hevents, hi]

theorem State.withFetchWord_of_ofBytes {nbits w : Nat} {r : Request} (h : Request.ofBytes (tableWordBytes nbits w) = .ok r)
    (s : State) : s.withFetchWord nbits w = s.feed [.request r] := by
  rw [State.withFetchWord, h]
  rfl

/-- Settles O25: a word that decodes is placed as the request its bytes carry. -/
theorem fetchedWordIsRunNext : Obligations.FetchedWordIsRunNext := by
  intro s nbits w i hword
  obtain ⟨r, hr, rfl⟩ := decode_eq_ok_iff.mp (decodeTableWord_eq_some_iff.mp hword)
  rw [State.withFetchWord_of_ofBytes hr, step_feed_request, State.feed_nil]

/-! ### The control word, read as a status word -/

theorem b2n_getLsbD (f : Bool) (i : Nat) : (b2n f).getLsbD i = (decide (i = 0) && f) := by
  cases f <;> simp [b2n, BitVec.getLsbD_one]

/-- Format CTL8 bit by bit, in the low byte of the word (30_encoding.md R71, R72). -/
theorem flagBit_controlWordOf (cmd : ControlCommand) :
    flagBit (controlWordOf cmd) 0 = cmd.enable ∧ flagBit (controlWordOf cmd) 1 = cmd.parameterlessMode ∧
    flagBit (controlWordOf cmd) 2 = false ∧ flagBit (controlWordOf cmd) 3 = cmd.moveToTarget ∧
    flagBit (controlWordOf cmd) 4 = cmd.emergencyRelease ∧ flagBit (controlWordOf cmd) 5 = cmd.releaseDirection ∧
    flagBit (controlWordOf cmd) 6 = false ∧ flagBit (controlWordOf cmd) 7 = false := by
  simp only [flagBit, controlWordOf, zext16, controlByte, BitVec.getLsbD_setWidth, BitVec.getLsbD_or,
    BitVec.getLsbD_shiftLeft, b2n_getLsbD]
  simp

theorem twoBitField_getLsbD (w : Word) (n : Nat) {i : Nat} (hi : i < 2) :
    (twoBitField w n).getLsbD i = flagBit w (n + i) := by
  simp only [twoBitField_eq_extract, BitVec.getLsbD_extractLsb', hi, flagBit, decide_true, Bool.true_and]

theorem twoBitField_eq_zero {w : Word} {n : Nat} (h0 : flagBit w n = false) (h1 : flagBit w (n + 1) = false) :
    twoBitField w n = 0#2 := by
  apply BitVec.eq_of_getLsbD_eq
  intro i hi
  rw [twoBitField_getLsbD w n hi, BitVec.getLsbD_zero]
  interval_cases i
  · exact h0
  · exact h1

/-- Settles O15: each field of the status reads the bit of the control word that stands in its place. -/
theorem decStatusIsNotInverseOfEncControl : Obligations.DecStatusIsNotInverseOfEncControl := by
  intro cmd
  obtain ⟨h0, h1, h2, h3, h4, h5, h6, h7⟩ := flagBit_controlWordOf cmd
  refine ⟨_, controlWordOf cmd, decodeStatus (controlWordOf cmd), fun _ => rfl, fun _ => rfl, h0, h1, h2, h3, ?_, ?_, ?_⟩
  · exact (twoBitField_getLsbD _ 4 (by decide)).trans h4
  · exact (twoBitField_getLsbD _ 4 (by decide)).trans h5
  · exact twoBitField_eq_zero h6 h7

end Sys2Proof.Machine
end

section
/-! SUPPORT. 40_command_encoder.md R100 to R105: the three encoders, what their words hold, and the round trips. -/

namespace Sys2Proof.Machine

open Sys2Proof

/-! ### What the operations answer -/

theorem exec_encControl (cmd : ControlCommand) (s : State) :
    exec (.encControl cmd) s = answer (.encControl (controlByte cmd) (controlWordOf cmd)) s := rfl

theorem exec_encPosition (p : Word) (s : State) :
    exec (.encPosition p) s = answer (.encPosition (positionWordOf p)) s := rfl

theorem exec_encSpeedForce (speed force : Byte) (s : State) :
    exec (.encSpeedForce speed force) s = answer (.encSpeedForce (speedForceWordOf speed force)) s := rfl

theorem exec_decSpeedForce (w : Word) (s : State) :
    exec (.decSpeedForce w) s = answer (.decSpeedForce (decodeSpeedForce w)) s := rfl

/-- The state after an answer shows which response was delivered. -/
theorem answer_eq_next_iff {r r' : Response} {s : State} :
    answer r s = .next { s with responses := s.responses ++ [r'] } ↔ r = r' := by
  constructor
  · intro h
    have hresponses := congrArg State.responses (Host.Outcome.next.inj h)
    simpa using hresponses
  · rintro rfl
    rfl

/-! ### The control value -/

/-- The control value is the low byte of the control word (30_encoding.md R72). -/
theorem controlByte_getLsbD (cmd : ControlCommand) {i : Nat} (hi : i < 8) :
    (controlByte cmd).getLsbD i = flagBit (controlWordOf cmd) i := by
  have hword : i < 16 := by omega
  simp [flagBit, controlWordOf, zext16, hword]

/-- Format CTL8 bit by bit (30_encoding.md R71). -/
theorem controlByte_bits (cmd : ControlCommand) :
    (controlByte cmd).getLsbD 0 = cmd.enable ∧ (controlByte cmd).getLsbD 1 = cmd.parameterlessMode ∧
    (controlByte cmd).getLsbD 2 = false ∧ (controlByte cmd).getLsbD 3 = cmd.moveToTarget ∧
    (controlByte cmd).getLsbD 4 = cmd.emergencyRelease ∧ (controlByte cmd).getLsbD 5 = cmd.releaseDirection ∧
    (controlByte cmd).getLsbD 6 = false ∧ (controlByte cmd).getLsbD 7 = false := by
  simpa only [controlByte_getLsbD cmd, Nat.reduceLT] using flagBit_controlWordOf cmd

/-- The five flags never share a bit, so their OR is a sum. -/
theorem controlByte_toNat (cmd : ControlCommand) :
    (controlByte cmd).toNat = cmd.enable.toNat + 2 * cmd.parameterlessMode.toNat + 8 * cmd.moveToTarget.toNat +
      16 * cmd.emergencyRelease.toNat + 32 * cmd.releaseDirection.toNat := by
  obtain ⟨e, m, t, er, rd⟩ := cmd
  revert e m t er rd
  decide

/-- Each flag can be read back from its bit, so two commands never share a control value. -/
theorem controlByte_inj {cmd cmd' : ControlCommand} (h : controlByte cmd = controlByte cmd') : cmd = cmd' := by
  obtain ⟨h0, h1, -, h3, h4, h5, -, -⟩ := controlByte_bits cmd
  obtain ⟨h0', h1', -, h3', h4', h5', -, -⟩ := controlByte_bits cmd'
  rw [h] at h0 h1 h3 h4 h5
  cases cmd
  cases cmd'
  rw [ControlCommand.mk.injEq]
  exact ⟨h0.symm.trans h0', h1.symm.trans h1', h3.symm.trans h3', h4.symm.trans h4', h5.symm.trans h5'⟩

theorem controlWordOf_toNat (cmd : ControlCommand) : (controlWordOf cmd).toNat = (controlByte cmd).toNat :=
  BitVec.toNat_setWidth_of_le (by decide)

theorem controlWordOf_getLsbD_of_le (cmd : ControlCommand) {i : Nat} (hi : 8 ≤ i) :
    (controlWordOf cmd).getLsbD i = false := by
  rw [controlWordOf, zext16, BitVec.getLsbD_setWidth, BitVec.getLsbD_of_ge _ _ hi, Bool.and_false]

/-- Settles O1: the flags stand in bits of their own, and the word adds only zeros above them. -/
theorem encControlBuildsControlValue : Obligations.EncControlBuildsControlValue := by
  intro cmd
  obtain ⟨-, -, h2, -, -, -, h6, h7⟩ := controlByte_bits cmd
  refine ⟨_, _, exec_encControl cmd, rfl, controlByte_toNat cmd, h2, h6, h7, controlWordOf_toNat cmd,
    fun _ => controlWordOf_getLsbD_of_le cmd, fun cmd' w' s h => ?_⟩
  rw [exec_encControl, answer_eq_next_iff, Response.encControl.injEq] at h
  exact controlByte_inj h.1

/-- Settles O2: each flag is one bit of the control value. -/
theorem controlValueInverseBitTest : Obligations.ControlValueInverseBitTest := by
  intro cmd
  obtain ⟨h0, h1, -, h3, h4, h5, -, -⟩ := controlByte_bits cmd
  exact ⟨_, _, exec_encControl cmd, h0, h1, h3, h4, h5⟩

/-! ### The position word -/

theorem positionWordOf_toNat (p : Word) : (positionWordOf p).toNat = 256 * (p.toNat % 256) := by
  rw [positionWordOf, shiftToHighByte_toNat]
  omega

/-- The position word is the operand's low byte over a zero byte (30_encoding.md R73). -/
theorem positionWordOf_eq_append (p : Word) : positionWordOf p = p.extractLsb' 0 8 ++ 0x00#8 := by
  apply BitVec.eq_of_toNat_eq
  rw [positionWordOf_toNat, append_bytes_toNat]
  simp

theorem positionWordOf_congr {p p' : Word} (h : p'.toNat % 256 = p.toNat % 256) :
    positionWordOf p' = positionWordOf p := by
  apply BitVec.eq_of_toNat_eq
  rw [positionWordOf_toNat, positionWordOf_toNat, h]

theorem positionWordOf_ushiftRight_toNat (p : Word) : (positionWordOf p >>> 8).toNat = p.toNat % 256 := by
  rw [BitVec.toNat_ushiftRight, positionWordOf_toNat, Nat.shiftRight_eq_div_pow]
  omega

theorem positionWordOf_and_lowMask (p : Word) : positionWordOf p &&& 0x00FF#16 = 0 := by
  apply BitVec.eq_of_toNat_eq
  calc (positionWordOf p &&& 0x00FF#16).toNat
      = (positionWordOf p).toNat % 2 ^ 8 := Nat.and_two_pow_sub_one_eq_mod _ 8
    _ = 0 := by rw [positionWordOf_toNat]; omega

/-- Settles O3: the shift by 8 puts the low byte on top and loses the rest. -/
theorem encPositionShiftsIntoHighByte : Obligations.EncPositionShiftsIntoHighByte := by
  intro p
  refine ⟨_, exec_encPosition p, rfl, shiftToHighByte_toNat p, positionWordOf_eq_append p, fun p' s h => ?_⟩
  rw [exec_encPosition, exec_encPosition, positionWordOf_congr h]

/-- Settles O4: shifting back gives the operand modulo 256, which is the operand where that is at most 255. -/
theorem positionWordLaw : Obligations.PositionWordLaw := by
  intro p
  have hback := positionWordOf_ushiftRight_toNat p
  refine ⟨_, exec_encPosition p, fun hp => ?_, hback, positionWordOf_and_lowMask p⟩
  exact BitVec.eq_of_toNat_eq (hback.trans (Nat.mod_eq_of_lt (by omega)))

/-! ### The speed and force word -/

/-- Both bytes of a pair can be read back from its word (40_command_encoder.md R105). -/
theorem decodeSpeedForce_speedForceWordOf (speed force : Byte) :
    decodeSpeedForce (speedForceWordOf speed force) = { speed := speed, force := force } := by
  have hlow : lowByte (packPair speed force) = speed := by
    apply BitVec.eq_of_toNat_eq
    rw [lowByte_toNat, packPair_toNat]
    omega
  have hhigh : highByte (packPair speed force) = force := by
    apply BitVec.eq_of_toNat_eq
    rw [highByte_toNat, packPair_toNat]
    omega
  rw [decodeSpeedForce, speedForceWordOf, hlow, hhigh]

/-- A word is made of its two bytes. -/
theorem packPair_lowByte_highByte (w : Word) : packPair (lowByte w) (highByte w) = w := by
  apply BitVec.eq_of_toNat_eq
  rw [packPair_toNat, lowByte_toNat, highByte_toNat]
  omega

/-- Settles O5: the pair of bytes is force over speed. -/
theorem encSpeedForcePacksBothBytes : Obligations.EncSpeedForcePacksBothBytes := fun speed force =>
  ⟨_, exec_encSpeedForce speed force, rfl, packPair_eq_append speed force, packPair_toNat speed force⟩

/-- Settles O6: the answer fixes the word, or the pair, and reading undoes packing either way. -/
theorem speedForceRoundTrip : Obligations.SpeedForceRoundTrip := by
  refine ⟨fun speed force w s t h => ?_, fun w v s t h => ?_⟩
  · rw [exec_encSpeedForce, answer_eq_next_iff, Response.encSpeedForce.injEq] at h
    rw [exec_decSpeedForce, answer_eq_next_iff, ← h, decodeSpeedForce_speedForceWordOf]
  · rw [exec_decSpeedForce, answer_eq_next_iff, Response.decSpeedForce.injEq] at h
    rw [exec_encSpeedForce, answer_eq_next_iff, ← h]
    exact congrArg _ (packPair_lowByte_highByte w)

end Sys2Proof.Machine
end

section
/-! SUPPORT. 41_status_decoder.md R110 to R117: the five decoders, the bits each one reads, and the words it tells apart. -/

namespace Sys2Proof.Machine

open Sys2Proof

/-! ### What the operations answer -/

theorem exec_decStatus (w : Word) (s : State) : exec (.decStatus w) s = answer (.decStatus (decodeStatus w)) s := rfl

theorem exec_decFault (w : Word) (s : State) : exec (.decFault w) s = answer (.decFault (decodeFault w)) s := rfl

theorem exec_decFaultPosition (w : Word) (s : State) :
    exec (.decFaultPosition w) s = answer (.decFaultPosition (decodeFaultPosition w)) s := rfl

theorem exec_decVoltageTemperature (w : Word) (s : State) :
    exec (.decVoltageTemperature w) s = answer (.decVoltageTemperature (decodeVoltageTemperature w)) s := rfl

theorem answer_inj {r r' : Response} {s : State} : answer r s = answer r' s ↔ r = r' := answer_eq_next_iff

/-- An operation that delivers one response in every state delivers no other: one state shows it. -/
theorem forall_answer_eq_next_iff {r r' : Response} :
    (∀ s : State, answer r s = .next { s with responses := s.responses ++ [r'] }) ↔ r = r' :=
  ⟨fun h => answer_eq_next_iff.mp (h State.reset), fun h _ => answer_eq_next_iff.mpr h⟩

/-! ### Bits and fields as numbers -/

theorem flagBit_toNat (w : Word) (i : Nat) : (flagBit w i).toNat = w.toNat / 2 ^ i % 2 :=
  Nat.toNat_testBit w.toNat i

theorem twoBitField_toNat (w : Word) (n : Nat) : (twoBitField w n).toNat = (w.toNat >>> n) &&& 0b11 := by
  rw [twoBitField_eq_extract, BitVec.extractLsb'_toNat]
  exact (Nat.and_two_pow_sub_one_eq_mod _ 2).symm

theorem twoBitField_toNat_eq_mod (w : Word) (n : Nat) : (twoBitField w n).toNat = w.toNat / 2 ^ n % 4 := by
  rw [twoBitField_eq_extract, BitVec.extractLsb'_toNat, Nat.shiftRight_eq_div_pow]

theorem highByte_toNat_eq_and (w : Word) : (highByte w).toNat = (w.toNat >>> 8) &&& 0xFF := by
  have hw := w.isLt
  calc (highByte w).toNat
      = w.toNat / 2 ^ 8 % 2 ^ 8 := by rw [highByte_toNat]; omega
    _ = (w.toNat >>> 8) &&& 0xFF := by
      rw [← Nat.shiftRight_eq_div_pow]
      exact (Nat.and_two_pow_sub_one_eq_mod _ 8).symm

/-! ### Words that agree on the bits a decoder reads -/

/-- A mask leaves the bits that it has. -/
theorem flagBit_and_of_mask (w : Word) {mask : Word} {i : Nat} (hi : mask.getLsbD i = true) :
    flagBit (w &&& mask) i = flagBit w i := by
  rw [flagBit, flagBit, BitVec.getLsbD_and, hi, Bool.and_true]

/-- Words equal modulo a power of two have the same bits below it. -/
theorem flagBit_congr_of_mod {w w' : Word} {n i : Nat} (h : w'.toNat % 2 ^ n = w.toNat % 2 ^ n) (hi : i < n) :
    flagBit w' i = flagBit w i := by
  have hbit : w'.toNat.testBit i = w.toNat.testBit i := by
    simpa only [Nat.testBit_mod_two_pow, hi, decide_true, Bool.true_and] using congrArg (Nat.testBit · i) h
  exact hbit

/-- A 2-bit field depends on its two bits alone. -/
theorem twoBitField_congr {w w' : Word} {n : Nat} (h0 : flagBit w' n = flagBit w n)
    (h1 : flagBit w' (n + 1) = flagBit w (n + 1)) : twoBitField w' n = twoBitField w n := by
  apply BitVec.eq_of_getLsbD_eq
  intro i hi
  rw [twoBitField_getLsbD _ _ hi, twoBitField_getLsbD _ _ hi]
  interval_cases i
  · exact h0
  · exact h1

/-- DEC_STATUS reads nothing above bit 7. -/
theorem decodeStatus_congr {w w' : Word} (h : ∀ i < 8, flagBit w' i = flagBit w i) :
    decodeStatus w' = decodeStatus w := by
  rw [decodeStatus, decodeStatus, GripperStatus.mk.injEq]
  exact ⟨h 0 (by decide), h 1 (by decide), h 2 (by decide), h 3 (by decide),
    twoBitField_congr (h 4 (by decide)) (h 5 (by decide)), twoBitField_congr (h 6 (by decide)) (h 7 (by decide))⟩

/-- DEC_FAULT reads nothing above bit 6. -/
theorem decodeFault_congr {w w' : Word} (h : ∀ i < 7, flagBit w' i = flagBit w i) :
    decodeFault w' = decodeFault w := by
  rw [decodeFault, decodeFault, faultFlags, faultFlags, FaultFlags.mk.injEq]
  exact ⟨h 0 (by decide), h 1 (by decide), h 2 (by decide), h 3 (by decide), h 4 (by decide), h 5 (by decide),
    h 6 (by decide)⟩

theorem decodeStatus_and_mask (w : Word) {mask : Word} (h : ∀ i < 8, mask.getLsbD i = true) :
    decodeStatus (w &&& mask) = decodeStatus w :=
  decodeStatus_congr fun i hi => flagBit_and_of_mask w (h i hi)

theorem decodeFault_and_mask (w : Word) {mask : Word} (h : ∀ i < 7, mask.getLsbD i = true) :
    decodeFault (w &&& mask) = decodeFault w :=
  decodeFault_congr fun i hi => flagBit_and_of_mask w (h i hi)

/-- The high byte of a word under a mask with all of its high byte. -/
theorem highByte_and_mask (w : Word) {mask : Word} (h : highByte mask = 0xFF#8) :
    highByte (w &&& mask) = highByte w := by
  have hand : highByte (w &&& mask) = highByte w &&& highByte mask := by
    ext i hi
    simp only [highByte, BitVec.ushiftRight_and_distrib, BitVec.getElem_setWidth, BitVec.getLsbD_and,
      BitVec.getElem_and]
    cases (w >>> 8).getLsbD i <;> simp
  rw [hand, h]
  exact BitVec.and_allOnes

/-- The fault part may be read from the whole word (41_status_decoder.md R117). -/
theorem decodeFaultPosition_eq (w : Word) :
    decodeFaultPosition w = { fault := decodeFault w, position := highByte w } := by
  rw [decodeFaultPosition, decodeFault_and_mask w (by decide)]

/-- Bit 7 lies between the flags and the position, and is in neither. -/
theorem decodeFaultPosition_and_mask (w : Word) :
    decodeFaultPosition (w &&& 0xFF7F#16) = decodeFaultPosition w := by
  rw [decodeFaultPosition_eq, decodeFaultPosition_eq, decodeFault_and_mask w (by decide), highByte_and_mask w rfl]

/-! ### DEC_STATUS -/

/-- The six fields cover the low byte, each at its own weight. -/
theorem decodeStatus_weights (w : Word) :
    w.toNat % 256 = (decodeStatus w).activated.toNat + 2 * (decodeStatus w).dropDetected.toNat +
      4 * (decodeStatus w).parameterlessMode.toNat + 8 * (decodeStatus w).goingToTarget.toNat +
      16 * (decodeStatus w).activationState.toNat + 64 * (decodeStatus w).motionState.toNat := by
  simp only [decodeStatus, flagBit_toNat, twoBitField_toNat_eq_mod]
  omega

/-- Settles O7: the fields are the word's bits by definition, and the mask keeps every bit that is read. -/
theorem decStatusReadsItsBits : Obligations.DecStatusReadsItsBits := by
  intro w
  refine ⟨_, exec_decStatus w, rfl, rfl, rfl, rfl, rfl, twoBitField_eq_extract w 4, twoBitField_eq_extract w 6,
    decodeStatus_weights w, fun s => ?_⟩
  rw [exec_decStatus, exec_decStatus, decodeStatus_and_mask w (by decide)]

/-- The names stand in listing order (30_encoding.md R83). -/
theorem activationStateName_listed (n : BitVec 2) :
    [ActivationState.resetOrInspecting, .activating, .reserved, .activated][n.toNat]? =
      some (activationStateName n) := by
  revert n
  decide

theorem motionStateName_listed (n : BitVec 2) :
    [MotionState.movingToPosition, .innerSupportDetected, .outerClipDetected, .noObjectDetected][n.toNat]? =
      some (motionStateName n) := by
  revert n
  decide

/-- Settles O8: each field is the masked shift as a number, and the number's name is the one listed at it. -/
theorem enumFieldsAreMaskedShifts : Obligations.EnumFieldsAreMaskedShifts := by
  intro w
  refine ⟨_, exec_decStatus w, twoBitField_toNat w 4, twoBitField_toNat w 6, ?_, ?_⟩
  · rw [← twoBitField_toNat]
    exact activationStateName_listed _
  · rw [← twoBitField_toNat]
    exact motionStateName_listed _

/-! ### DEC_FAULT and DEC_FAULT_POSITION -/

/-- The seven flags cover bits 6:0, each at its own weight. -/
theorem decodeFault_weights (w : Word) :
    w.toNat % 128 = (decodeFault w).commandError.toNat + 2 * (decodeFault w).communicationFault.toNat +
      4 * (decodeFault w).overcurrent.toNat + 8 * (decodeFault w).voltageOutOfRange.toNat +
      16 * (decodeFault w).enablingError.toNat + 32 * (decodeFault w).overtemperature.toNat +
      64 * (decodeFault w).selfFault.toNat := by
  simp only [decodeFault, faultFlags, flagBit_toNat]
  omega

/-- Settles O9: words equal modulo 128 agree on the seven bits that are read. -/
theorem decFaultReadsSevenFlags : Obligations.DecFaultReadsSevenFlags := by
  intro w
  refine ⟨_, exec_decFault w, rfl, rfl, rfl, rfl, rfl, rfl, rfl, rfl, decodeFault_weights w, fun w' s h => ?_⟩
  rw [exec_decFault, exec_decFault, decodeFault_congr fun i => flagBit_congr_of_mod (n := 7) h]

/-- Settles O10: the low byte holds all that DEC_FAULT reads, so the fault part is the whole word's too. -/
theorem decFaultPositionSplitsWord : Obligations.DecFaultPositionSplitsWord := by
  intro w
  refine ⟨{ fault := decodeFault w, position := highByte w }, fun s => ?_, rfl, fun s => ?_, highByte_toNat w,
    rfl, rfl, rfl, rfl, rfl, rfl, rfl, fun s => ?_⟩
  · rw [exec_decFaultPosition, answer_eq_next_iff, decodeFaultPosition_eq]
  · rw [exec_decFault, answer_eq_next_iff, decodeFault_and_mask w (by decide)]
  · rw [exec_decFaultPosition, exec_decFaultPosition, decodeFaultPosition_and_mask]

/-! ### The pair decoders -/

/-- A word and its two bytes determine each other. -/
theorem bytes_eq_iff {w : Word} {first second : Byte} :
    lowByte w = first ∧ highByte w = second ↔ w = packPair first second := by
  constructor
  · rintro ⟨rfl, rfl⟩
    exact (packPair_lowByte_highByte w).symm
  · rintro rfl
    exact (SpeedForce.mk.injEq ..).mp (decodeSpeedForce_speedForceWordOf first second)

theorem decodeSpeedForce_eq_iff {w : Word} {v : SpeedForce} :
    decodeSpeedForce w = v ↔ w = packPair v.speed v.force := by
  obtain ⟨speed, force⟩ := v
  rw [decodeSpeedForce, SpeedForce.mk.injEq, bytes_eq_iff]

theorem decodeVoltageTemperature_eq_iff {w : Word} {v : VoltageTemperature} :
    decodeVoltageTemperature w = v ↔ w = packPair v.voltage v.temperature := by
  obtain ⟨voltage, temperature⟩ := v
  rw [decodeVoltageTemperature, VoltageTemperature.mk.injEq, bytes_eq_iff]

theorem decodeSpeedForce_inj {w w' : Word} : decodeSpeedForce w = decodeSpeedForce w' ↔ w = w' := by
  rw [decodeSpeedForce_eq_iff]
  exact iff_of_eq (congrArg (w = ·) (packPair_lowByte_highByte w'))

theorem decodeVoltageTemperature_inj {w w' : Word} :
    decodeVoltageTemperature w = decodeVoltageTemperature w' ↔ w = w' := by
  rw [decodeVoltageTemperature_eq_iff]
  exact iff_of_eq (congrArg (w = ·) (packPair_lowByte_highByte w'))

/-- Settles O11: the one word that gives a pair is its force over its speed. -/
theorem decSpeedForceSplitsWord : Obligations.DecSpeedForceSplitsWord := by
  refine ⟨fun w => ⟨_, exec_decSpeedForce w, rfl, lowByte_toNat w, highByte_toNat w⟩, fun v => ?_⟩
  simp only [exec_decSpeedForce, forall_answer_eq_next_iff, Response.decSpeedForce.injEq, decodeSpeedForce_eq_iff]
  exact existsUnique_eq

/-- Settles O12: the one word that gives a pair is its temperature over its voltage. -/
theorem decVoltageTemperatureSplitsWord : Obligations.DecVoltageTemperatureSplitsWord := by
  refine ⟨fun w => ⟨_, exec_decVoltageTemperature w, rfl, lowByte_toNat w, highByte_toNat w⟩, fun v => ?_⟩
  simp only [exec_decVoltageTemperature, forall_answer_eq_next_iff, Response.decVoltageTemperature.injEq,
    decodeVoltageTemperature_eq_iff]
  exact existsUnique_eq

/-! ### The decoders together -/

/-- Settles O13: each mask has every bit its decoder reads, and a pair of bytes fixes its word. -/
theorem decodersIgnoreNamedBits : Obligations.DecodersIgnoreNamedBits := by
  intro w s
  refine ⟨?_, ?_, ?_, fun w' h => ?_, fun w' h => ?_⟩
  · rw [exec_decStatus, exec_decStatus, decodeStatus_and_mask w (by decide)]
  · rw [exec_decFault, exec_decFault, decodeFault_and_mask w (by decide)]
  · rw [exec_decFaultPosition, exec_decFaultPosition, decodeFaultPosition_and_mask]
  · rw [exec_decSpeedForce, exec_decSpeedForce, answer_inj, Response.decSpeedForce.injEq] at h
    exact decodeSpeedForce_inj.mp h
  · rw [exec_decVoltageTemperature, exec_decVoltageTemperature, answer_inj,
      Response.decVoltageTemperature.injEq] at h
    exact decodeVoltageTemperature_inj.mp h

/-- Settles O14: the low byte has all the bits DEC_FAULT reads, and all three high-byte fields are the one high byte. -/
theorem decodersCompose : Obligations.DecodersCompose := by
  intro w
  refine ⟨decodeFaultPosition w, decodeSpeedForce w, decodeVoltageTemperature w, fun s =>
    ⟨exec_decFaultPosition w s, ?_, exec_decFault _ s, exec_decSpeedForce w s, exec_decVoltageTemperature w s, rfl, rfl,
      highByte_toNat_eq_and w⟩⟩
  rw [exec_decFault, answer_eq_next_iff, decodeFaultPosition_eq]

end Sys2Proof.Machine
end

section
/-! SUPPORT. 42_host_sequences.md R130, R146, 95_test_vectors.md S8: which session a step moves and which one it returns
from, and the loop of `waitForMove`. -/

namespace Sys2Proof.Machine

open Sys2Proof

/-! ### A step on the first of the inputs to come -/

theorem step_of_events_invoke {s : State} {k : Nat} {op : SessionOp} {rest : List Event}
    (h : s.events = .invoke k op :: rest) : step s = invoke k op { s with events := rest } := by
  rw [step, h]

theorem step_of_events_resume {s : State} {k : Nat} {rest : List Event} (h : s.events = .resume k :: rest) :
    step s = resume k { s with events := rest } := by
  rw [step, h]

theorem step_of_events_reply {s : State} {r : Reply} {rest : List Event} (h : s.events = .reply r :: rest) :
    step s = complete r { s with events := rest } := by
  rw [step, h]

/-! ### The session an input moves -/

/-- Setting a position moves at most that session. -/
theorem State.eq_of_setActivity_ne {s : State} {j k : Nat} {a : Activity}
    (h : (s.setActivity k a).sessions[j]? ≠ s.sessions[j]?) : j = k :=
  not_not.mp fun hjk => h (State.setActivity_other hjk a)

theorem State.setDeviceAddress_other {s : State} {j k : Nat} (h : j ≠ k) (a : Byte) :
    (s.setDeviceAddress k a).sessions[j]? = s.sessions[j]? := by
  simp only [State.setDeviceAddress]
  split
  · exact State.setActivity_other h .idle
  · simp [Ne.symm h]

theorem invoke_moves {j k : Nat} {op : SessionOp} {s t : State} (h : invoke k op s = .next t)
    (hj : t.sessions[j]? ≠ s.sessions[j]?) : j = k := by
  obtain ⟨u, -, -, rfl⟩ := invoke_next h
  rcases s.begin_cases k u op with ⟨a, -, ht⟩ | ⟨a, c, -, ht⟩ <;> rw [ht] at hj
  · exact not_not.mp fun hjk => hj (State.setDeviceAddress_other hjk a)
  · exact State.eq_of_setActivity_ne hj

theorem resume_moves {j k : Nat} {s t : State} (h : resume k s = .next t) (hj : t.sessions[j]? ≠ s.sessions[j]?) :
    j = k := by
  obtain ⟨-, u, a, b, c, m, -, -, -, rfl | ⟨wakeTime, rfl⟩, rfl⟩ := resume_effect h
  · exact State.eq_of_setActivity_ne hj
  · exact State.eq_of_setActivity_ne (s := s) hj

/-- An answer gives the session that waits for it a new position. -/
theorem complete_sessions {r : Reply} {s t : State} (h : complete r s = .next t) :
    ∃ f b, s.link = some f ∧ t.sessions = (s.setActivity f.session b).sessions := by
  obtain ⟨f, x, m, hl, -, hm, ht⟩ := complete_effect h
  obtain ⟨-, -, hsessions, -⟩ := settled_frame (hm.imp_right And.right)
  have hmoved := State.setActivity_sessions_congr hsessions f.session
  rcases ht with ⟨res, rfl⟩ | ⟨now, next, rest, -, rfl⟩ | ⟨wait, -, rfl⟩
  · exact ⟨f, _, hl, hmoved .idle⟩
  · exact ⟨f, _, hl, hmoved _⟩
  · exact ⟨f, _, hl, hmoved _⟩

theorem complete_moves {j : Nat} {r : Reply} {s t : State} (h : complete r s = .next t)
    (hj : t.sessions[j]? ≠ s.sessions[j]?) : ∃ c, s.link = some { session := j, call := c } := by
  obtain ⟨f, b, hl, hsessions⟩ := complete_sessions h
  rw [hsessions] at hj
  exact ⟨f.call, by rw [hl, State.eq_of_setActivity_ne hj]⟩

theorem cancel_moves {j k : Nat} {s t : State} (h : cancel k s = .next t) (hj : t.sessions[j]? ≠ s.sessions[j]?) :
    j = k := by
  obtain ⟨x, -, rfl⟩ := cancel_next h
  exact State.eq_of_setActivity_ne hj

/-- A new session takes no place that is taken. -/
theorem State.openSession_getElem? {s : State} {j : Nat} {x : Session} (h : s.sessions[j]? = some x) :
    s.openSession.sessions[j]? = some x := by
  obtain ⟨hj, -⟩ := List.getElem?_eq_some_iff.mp h
  rw [State.openSession_sessions, List.getElem?_append_left hj, h]

/-- Settles O55, by the session each input moves. -/
theorem otherSessionsKeepStill : Obligations.OtherSessionsKeepStill := by
  intro s t j x h hx hne
  have hmoved : t.sessions[j]? ≠ s.sessions[j]? := hx ▸ hne
  rcases step_next h with ⟨-, rfl⟩ | ⟨_, _, _, -, rfl⟩ | ⟨_, -, rfl⟩ | ⟨k, op, rest, he, ht⟩ | ⟨k, rest, he, ht⟩ |
    ⟨r, rest, he, ht⟩ | ⟨k, rest, he, ht⟩ | ⟨_, _, -, rfl⟩ | ⟨_, _, -, rfl⟩
  · exact absurd hx hne
  · exact absurd hx hne
  · exact absurd (State.openSession_getElem? hx) hne
  · obtain rfl := invoke_moves ht hmoved
    exact .inl ⟨op, rest, he⟩
  · obtain rfl := resume_moves ht hmoved
    exact .inr (.inl ⟨rest, he⟩)
  · obtain ⟨c, hl⟩ := complete_moves ht hmoved
    exact .inr (.inr (.inr ⟨c, r, rest, hl, he⟩))
  · obtain rfl := cancel_moves ht hmoved
    exact .inr (.inr (.inl ⟨rest, he⟩))
  · exact absurd hx hne
  · exact absurd hx hne

/-! ### The answer to a poll of `waitForMove` -/

theorem motionStateName_eq_moving_iff {n : BitVec 2} : motionStateName n = .movingToPosition ↔ n = 0#2 := by
  revert n
  decide

/-- While the device moves, a poll ends the wait exactly when it is cancelled. -/
theorem State.afterPoll_of_stillMoving {r : Reply} (h : r.StillMoving) (s : State) (k : Nat) (cancelled : Bool) :
    s.afterPoll k (.move cancelled) r =
      if cancelled then s.finish k .cancelled else s.sleep k (.move cancelled) := by
  obtain ⟨w0, w1, rfl, hmoving⟩ := h
  exact if_neg (not_not.mpr (motionStateName_eq_moving_iff.mp hmoving))

/-! ### An uncancelled `waitForMove` -/

theorem State.WaitsForMove.congr {s t : State} {k : Nat} (h : s.WaitsForMove k)
    (hk : t.sessions[k]? = s.sessions[k]?) : t.WaitsForMove k := by
  simpa only [State.WaitsForMove, State.At, hk] using h

theorem State.WaitsForMove.exists_session {s : State} {k : Nat} (h : s.WaitsForMove k) :
    ∃ x, s.sessions[k]? = some x := by
  obtain ⟨u, hp | ⟨wakeTime, hs⟩⟩ := h
  · exact ⟨_, hp⟩
  · exact ⟨_, hs⟩

theorem State.WaitsForMove.not_idle {s : State} {k : Nat} {u : Byte} (h : s.WaitsForMove k) : ¬ s.At k u .idle := by
  intro hidle
  obtain ⟨v, hp | ⟨wakeTime, hs⟩⟩ := h
  · cases (hp.unique hidle).2
  · cases (hs.unique hidle).2

/-- Going on, the wait polls. -/
theorem resume_waitsForMove {k : Nat} {s t : State} (h : resume k s = .next t) (hw : s.WaitsForMove k) :
    t.WaitsForMove k := by
  obtain ⟨v, hv⟩ := hw
  obtain ⟨-, u, ⟨wait, wakeTime, ha, rfl⟩ | ⟨next, later, ha, -⟩⟩ := resume_next h
  · rcases hv with hp | ⟨_, hs⟩
    · cases (ha.unique hp).2
    · cases (ha.unique hs).2
      exact ⟨u, .inl ((ha.wake wakeTime).await _ _)⟩
  · rcases hv with hp | ⟨_, hs⟩
    · cases (ha.unique hp).2
    · cases (ha.unique hs).2

/-- Answered that the device still moves, the wait sleeps. -/
theorem complete_waitsForMove {k : Nat} {r : Reply} {s t : State} {c : Call} (h : complete r s = .next t)
    (hl : s.link = some { session := k, call := c }) (hr : r.StillMoving) (hw : s.WaitsForMove k) :
    t.WaitsForMove k := by
  obtain ⟨u, hp | ⟨wakeTime, hs⟩⟩ := hw
  · rw [complete_of_polling hl hp, State.afterPoll_of_stillMoving hr] at h
    cases h
    exact ⟨u, .inr ⟨_, hp.freeLink.sleep _⟩⟩
  · rw [State.At] at hs
    simp [complete, hl, hs] at h

/-- Settles O45: the step moves the session only on an input for it, and of those the hypotheses leave its going on and
the answer of a device still moving. -/
theorem waitForMoveLeftOnlyByItsPoll : Obligations.WaitForMoveLeftOnlyByItsPoll := by
  intro s t k hw h hcancel hreply
  by_cases hk : t.sessions[k]? = s.sessions[k]?
  · exact hw.congr hk
  obtain ⟨x, hx⟩ := hw.exists_session
  rcases otherSessionsKeepStill s t k x h hx (hx ▸ hk) with
    ⟨op, rest, he⟩ | ⟨rest, he⟩ | ⟨rest, he⟩ | ⟨c, r, rest, hl, he⟩
  · rw [step_of_events_invoke he] at h
    obtain ⟨u, hidle, -⟩ := invoke_next h
    exact absurd hidle (hw.congr rfl).not_idle
  · rw [step_of_events_resume he] at h
    exact resume_waitsForMove h (hw.congr rfl)
  · exact absurd he (hcancel rest)
  · rw [step_of_events_reply he] at h
    exact complete_waitsForMove h hl (hreply c r rest hl he) (hw.congr rfl)

/-! ### What a step returns, and the inputs it leaves -/

theorem State.At.setUnitId {s : State} {k : Nat} {u : Byte} {a : Activity} (h : s.At k u a) (b : Byte) :
    State.At { s with sessions := s.sessions.modify k fun x => { x with unitId := b } } k b a := by
  rw [State.At] at h ⊢
  simp [h]

theorem State.At.setDeviceAddress_idle {s : State} {k : Nat} {u : Byte} {a : Activity} (h : s.At k u a) (b : Byte) :
    ∃ v, (s.setDeviceAddress k b).At k v .idle := by
  simp only [State.setDeviceAddress]
  split
  · exact ⟨u, h.finish _⟩
  · exact ⟨b, (h.setUnitId b).finish .done⟩

/-- From `s` to `t` at most one session has returned to its caller, and it is idle then. -/
def State.Returns (s t : State) : Prop :=
  t.results = s.results ∨ ∃ j u res, t.results = s.results ++ [(j, res)] ∧ t.At j u .idle

theorem invoke_returns {k : Nat} {op : SessionOp} {s t : State} (h : invoke k op s = .next t) : s.Returns t := by
  obtain ⟨u, hidle, -, rfl⟩ := invoke_next h
  rcases s.begin_cases k u op with ⟨a, -, ht⟩ | ⟨a, c, -, ht⟩ <;> rw [ht]
  · obtain ⟨res, hframe⟩ := s.setDeviceAddress_frame k a
    obtain ⟨v, hv⟩ := hidle.setDeviceAddress_idle a
    exact .inr ⟨k, v, res, by rw [hframe], hv⟩
  · exact .inl rfl

theorem resume_returns {k : Nat} {s t : State} (h : resume k s = .next t) : s.Returns t := by
  obtain ⟨-, u, a, b, c, m, -, -, -, rfl | ⟨wakeTime, rfl⟩, rfl⟩ := resume_effect h
  · exact .inl rfl
  · exact .inl rfl

theorem complete_returns {r : Reply} {s t : State} (h : complete r s = .next t) : s.Returns t := by
  obtain ⟨f, x, m, -, hx, hm, ht⟩ := complete_effect h
  obtain ⟨-, -, hsessions, -, hresults, -⟩ := settled_frame (hm.imp_right And.right)
  have hat : m.At f.session x.unitId x.activity := State.at_of_getElem? (hsessions ▸ hx)
  rcases ht with ⟨res, rfl⟩ | ⟨now, next, rest, -, rfl⟩ | ⟨wait, -, rfl⟩
  · exact .inr ⟨f.session, x.unitId, res, by rw [State.finish_results, hresults], hat.finish res⟩
  · exact .inl hresults
  · exact .inl hresults

theorem step_returns {s t : State} (h : step s = .next t) : s.Returns t := by
  rcases step_next h with ⟨-, rfl⟩ | ⟨_, _, _, -, rfl⟩ | ⟨_, -, rfl⟩ | ⟨_, _, _, -, ht⟩ | ⟨_, _, -, ht⟩ |
    ⟨_, _, -, ht⟩ | ⟨_, _, -, ht⟩ | ⟨_, _, -, rfl⟩ | ⟨_, _, -, rfl⟩
  · exact .inl rfl
  · exact .inl rfl
  · exact .inl rfl
  · exact (invoke_returns ht :)
  · exact (resume_returns ht :)
  · exact (complete_returns ht :)
  · obtain ⟨x, -, rfl⟩ := cancel_next ht
    exact .inl rfl
  · exact .inl rfl
  · exact .inl rfl

theorem invoke_events {k : Nat} {op : SessionOp} {s t : State} (h : invoke k op s = .next t) : t.events = s.events := by
  obtain ⟨u, -, -, rfl⟩ := invoke_next h
  rcases s.begin_cases k u op with ⟨a, -, ht⟩ | ⟨a, c, -, ht⟩ <;> rw [ht]
  · obtain ⟨res, hframe⟩ := s.setDeviceAddress_frame k a
    rw [hframe]
  · rfl

theorem resume_events {k : Nat} {s t : State} (h : resume k s = .next t) : t.events = s.events := by
  obtain ⟨-, u, a, b, c, m, -, -, -, rfl | ⟨wakeTime, rfl⟩, rfl⟩ := resume_effect h
  · rfl
  · rfl

theorem complete_events {r : Reply} {s t : State} (h : complete r s = .next t) : t.events = s.events := by
  obtain ⟨f, x, m, -, -, hm, ht⟩ := complete_effect h
  have hevents : m.events = s.events := by
    rcases hm with rfl | ⟨-, rfl⟩
    · rfl
    · rw [State.land_events, State.freeLink_events]
  rcases ht with ⟨res, rfl⟩ | ⟨now, next, rest, -, rfl⟩ | ⟨wait, -, rfl⟩
  · exact hevents
  · exact hevents
  · exact hevents

/-- A step takes the first input and leaves the others. -/
theorem step_events {s t : State} (h : step s = .next t) : t.events = s.events.tail := by
  rcases step_next h with ⟨he, rfl⟩ | ⟨_, _, rest, he, rfl⟩ | ⟨rest, he, rfl⟩ | ⟨_, _, rest, he, ht⟩ |
    ⟨_, rest, he, ht⟩ | ⟨_, rest, he, ht⟩ | ⟨_, rest, he, ht⟩ | ⟨_, rest, he, rfl⟩ | ⟨_, rest, he, rfl⟩ <;> rw [he]
  · rfl
  · rfl
  · rfl
  · exact invoke_events ht
  · exact resume_events ht
  · exact complete_events ht
  · obtain ⟨x, -, rfl⟩ := cancel_next ht
    rfl
  · rfl
  · rfl

/-! ### Any number of steps -/

/-- A session that waits after a step has not returned in it. -/
theorem State.Returns.results_of_waitsForMove {s t : State} {k : Nat} (h : s.Returns t) (hw : t.WaitsForMove k) :
    t.results.filter (fun p => p.1 == k) = s.results.filter (fun p => p.1 == k) := by
  rcases h with hres | ⟨j, u, res, hres, hidle⟩
  · rw [hres]
  · have hjk : j ≠ k := by
      rintro rfl
      exact hw.not_idle hidle
    simp [hres, hjk]

/-- Settles O46, by induction on the steps: each keeps the session in its loop (O45), so it returns nothing, and
takes one of the inputs. -/
theorem waitForMoveNeverReturnsAlone : Obligations.WaitForMoveNeverReturnsAlone := by
  intro n
  induction n with
  | zero =>
    intro s t k hw _ h
    cases h
    exact ⟨hw, rfl⟩
  | succ n ih =>
    intro s t k hw hkeeps h
    obtain ⟨m, hstep, hrun⟩ := run_succ_eq_next h
    have hhead {e : Event} {rest : List Event} (he : s.events = e :: rest) : e.KeepsMoving k :=
      hkeeps e (he ▸ List.mem_cons_self)
    have hwm : m.WaitsForMove k := waitForMoveLeftOnlyByItsPoll s m k hw hstep
      (fun _ he => (hhead he : k ≠ k) rfl) (fun _ _ _ _ he => hhead he)
    have hrest : ∀ e ∈ m.events, e.KeepsMoving k := fun e he =>
      hkeeps e (List.mem_of_mem_tail (step_events hstep ▸ he))
    obtain ⟨hwt, hresults⟩ := ih m t k hwm hrest hrun
    exact ⟨hwt, hresults.trans ((step_returns hstep).results_of_waitsForMove hwm)⟩

end Sys2Proof.Machine
end

section
/-! SUPPORT. 42_host_sequences.md R130 to R132, R149 to R151: what is refused to a session, the setter of its address,
where it is suspended, and the call that fails. -/

namespace Sys2Proof.Machine

open Sys2Proof

/-! ### Refused starts -/

theorem invoke_of_busy {s : State} {k : Nat} {x : Session} (hx : s.sessions[k]? = some x) (hbusy : x.activity ≠ .idle)
    (op : SessionOp) : invoke k op s = .refused op.busyRefusal := by
  simp [invoke, hx, hbusy]

theorem invoke_of_busy_link {s : State} {k : Nat} {u : Byte} (h : s.At k u .idle) (hl : s.link.isSome = true)
    (op : SessionOp) : invoke k op s = .refused .linkBusy := by
  rw [State.At] at h
  simp [invoke, h, hl]

theorem resume_of_busy_link {s : State} (hl : s.link.isSome = true) (k : Nat) : resume k s = .refused .linkBusy := by
  obtain ⟨f, hf⟩ := Option.isSome_iff_exists.mp hl
  rw [resume, hf]

/-- Only the setter of the address has a refusal of its own. -/
theorem SessionOp.busyRefusal_of_ne {op : SessionOp} (h : ¬ ∃ a, op = .setDeviceAddress a) :
    op.busyRefusal = .sessionBusy := by
  cases op
  case setDeviceAddress a => exact absurd ⟨a, rfl⟩ h
  all_goals rfl

/-- A session that awaits an answer is not idle. -/
theorem Session.not_idle_of_awaitedCall {x : Session} {c : Call} (h : x.awaitedCall = some c) : x.activity ≠ .idle := by
  intro hidle
  cases h.symm.trans (Session.awaitedCall_eq_none.mpr (.inl hidle))

/-- Settles O30, by the refusal of each operation. -/
theorem busySessionStartsNothing : Obligations.BusySessionStartsNothing := by
  intro s k u act op h hbusy
  rw [step_feed_invoke, State.feed_nil, invoke_of_busy h hbusy]
  split
  · next hset =>
    obtain ⟨a, rfl⟩ := hset
    rfl
  · next hset => rw [SessionOp.busyRefusal_of_ne hset]

/-- Settles O29: a session whose call is outstanding is busy. -/
theorem addressChangeInFlightRefused : Obligations.AddressChangeInFlightRefused := by
  intro s k x c a _ hx hc
  exact invoke_of_busy (s := s) hx (Session.not_idle_of_awaitedCall hc) (.setDeviceAddress a)

/-- Settles O50: both look at the link before they do anything. -/
theorem busyLinkHoldsSessionsBack : Obligations.BusyLinkHoldsSessionsBack :=
  ⟨fun s k hl => resume_of_busy_link (s := s) hl k, fun s _ _ op hl h => invoke_of_busy_link (s := s) h hl op⟩

/-! ### The setter of the address -/

theorem State.setDeviceAddress_of_legal {a : Byte} (h : a.toNat ≤ 247) (s : State) (k : Nat) :
    s.setDeviceAddress k a =
      State.finish { s with sessions := s.sessions.modify k fun x => { x with unitId := a } } k .done :=
  if_neg (not_lt.mpr h)

theorem State.setDeviceAddress_of_illegal {a : Byte} (h : 247 < a.toNat) (s : State) (k : Nat) :
    s.setDeviceAddress k a = s.raise k (.configurationError a) :=
  if_pos h

/-- Settles O28, by the two ways the setter returns. -/
theorem setDeviceAddress : Obligations.SetDeviceAddress := by
  intro s k u a h hl
  refine ⟨s.setDeviceAddress k a, invoke_of_idle (s := s) h _ hl, fun ha => ?_, fun ha => ?_,
    fun j hj => State.setDeviceAddress_other hj a, ?_⟩
  · rw [State.setDeviceAddress_of_legal ha]
    exact ⟨(h.setUnitId a).finish .done, rfl⟩
  · rw [State.setDeviceAddress_of_illegal ha]
    exact ⟨h.finish _, rfl⟩
  · obtain ⟨res, hframe⟩ := s.setDeviceAddress_frame k a
    rw [hframe]

/-! ### Where operations are suspended -/

/-- Settles O51, by the move each input makes on the link. -/
theorem suspendedOnlyAtAnswerOrSleep : Obligations.SuspendedOnlyAtAnswerOrSleep := by
  intro s t hs h
  rcases step_next h with ⟨-, rfl⟩ | ⟨_, _, _, -, rfl⟩ | ⟨_, -, rfl⟩ | ⟨_, _, _, -, ht⟩ | ⟨_, _, -, ht⟩ |
    ⟨_, _, -, ht⟩ | ⟨_, _, -, ht⟩ | ⟨_, _, -, rfl⟩ | ⟨_, _, -, rfl⟩
  · exact hs
  · exact hs
  · exact (State.LinkMove.still rfl rfl s.awaited_openSession : s.LinkMove s.openSession).suspended hs
  · exact (invoke_linkMove ht).suspended hs
  · exact (resume_linkMove ht).suspended hs
  · exact (complete_linkMove ht).suspended hs
  · exact (cancel_linkMove ht).suspended hs
  · exact hs
  · exact hs

/-! ### The call that fails -/

/-- A failed call ends the operation, be it a write, a read or a poll. That it reached its device matters for a write
alone. -/
theorem complete_of_failed {s : State} {k : Nat} {x : Session} {c : Call}
    (hl : s.link = some { session := k, call := c }) (hx : s.sessions[k]? = some x)
    (hc : x.awaitedCall = some c) (f : TransportFailure) (landed : Bool) :
    complete (.failed f landed) s =
      .next ((if landed then s.freeLink.land c else s.freeLink).raise k (.transportError f)) := by
  obtain ⟨u, a⟩ := x
  cases a with
  | idle | answered _ _ | sleeping _ _ => cases hc
  | writing now later => exact complete_of_writing hl hx _
  | reading register =>
    cases hc
    rw [complete_of_reading hl hx, readCall, State.land_readInput, ite_self]
    rfl
  | polling wait =>
    cases hc
    rw [complete_of_polling hl hx, readCall, State.land_readInput, ite_self]
    rfl

/-- Settles O41, by the one state in which every failed call ends. -/
theorem failingCallEndsOperation : Obligations.FailingCallEndsOperation := by
  intro s k x c f landed hl hx hc
  have hat : s.At k x.unitId x.activity := State.at_of_getElem? hx
  refine ⟨_, complete_of_failed (s := s) hl hx hc f landed, ?_⟩
  cases landed with
  | false => exact ⟨hat.freeLink.finish _, fun j hj => State.setActivity_other hj .idle, rfl⟩
  | true =>
    refine ⟨(hat.freeLink.land c).finish _, fun j hj => ?_, ?_⟩
    · rw [if_pos rfl, State.raise_sessions, State.setActivity_other hj, State.land_sessions, State.freeLink_sessions]
    · cases c with
      | readInput => rfl
      | writeRegs => rfl

end Sys2Proof.Machine
end

section
/-! SUPPORT. 42_host_sequences.md R133 to R145, R148: operations of a session that run from their start to their return,
first those of one read and then those of one or more writes. -/

namespace Sys2Proof.Machine

open Sys2Proof

/-- A session idle before its operation has moved nothing once it is idle again. -/
theorem State.At.finish_eq {s m : State} {k : Nat} {u : Byte} {a : Activity} (h : s.At k u .idle)
    (hm : m.sessions = (s.setActivity k a).sessions) (res : Result) :
    m.finish k res = { m with sessions := s.sessions, results := m.results ++ [(k, res)] } := by
  have hsessions : (m.setActivity k .idle).sessions = s.sessions :=
    (State.setActivity_sessions_congr hm k .idle).trans (h.idle_again a)
  rw [← hsessions]
  rfl

/-! ### Reads -/

/-- What a read of a status register hands to its caller on an answer (42_host_sequences.md R133 to R137). -/
def StatusRegister.readResult (register : StatusRegister) (r : Reply) : Result :=
  match r.firstWord register.count with
  | .ok w => register.decodeResult w
  | .error f => .error (.transportError f)

theorem State.afterRead_eq (s : State) (k : Nat) (register : StatusRegister) (r : Reply) :
    s.afterRead k register r = s.finish k (register.readResult r) := by
  rw [State.afterRead, StatusRegister.readResult]
  cases r.firstWord register.count <;> rfl

/-- Any other number of words is a malformed response (20_memory.md R62). -/
theorem Reply.firstWord_of_length_ne {n : Nat} {ws : List Word} (h : ws.length ≠ n) :
    Reply.firstWord n (.ok ws) = .error .malformedResponse := by
  cases ws with
  | nil => rfl
  | cons w ws => exact if_neg h

theorem Reply.firstWord_of_length_eq {n : Nat} {w : Word} {ws : List Word} (h : (w :: ws).length = n) :
    Reply.firstWord n (.ok (w :: ws)) = .ok w :=
  if_pos h

/-- An operation that is one read of a status register, from its start to its return, whatever devices change
meanwhile. -/
theorem run_read {s : State} {k : Nat} {u : Byte} {op : SessionOp} {register : StatusRegister} (h : s.At k u .idle)
    (hl : s.link = none) (hop : s.begin k u op = s.startRead k u register) (r : Reply) (changes : List DeviceChange) :
    run (changes.length + 2) (s.feed (.invoke k op :: (changes.map .deviceChange ++ [.reply r]))) =
      .next { s with
        control := (s.deviceChanges changes).control
        trace := s.trace ++ [readCall u register]
        results := s.results ++ [(k, register.readResult r)] } := by
  have hreading := (h.await (.reading register) (readCall u register)).deviceChanges changes
  have hlink : ((s.await k (.reading register) (readCall u register)).deviceChanges changes).link =
      some { session := k, call := readCall u register } := by simp
  have hcontrol := State.deviceChanges_control_congr (s := s.await k (.reading register) (readCall u register)) (t := s)
    rfl changes
  rw [run_feed_invoke h hl op (changes.length + 1), hop, State.startRead_eq, run_feed_deviceChanges,
    run_feed_reply_reading hlink hreading, State.afterRead_eq, run_zero, State.feed_nil,
    h.finish_eq (a := .reading register) (by simp), State.deviceChanges_eq, hcontrol, hl]
  rfl

/-- What the caller of such an operation gets. -/
theorem run_read_result {s : State} {k : Nat} {u : Byte} {op : SessionOp} {register : StatusRegister}
    (h : s.At k u .idle) (hl : s.link = none) (hop : s.begin k u op = s.startRead k u register) (r : Reply)
    (changes : List DeviceChange) :
    ∃ res : Result,
      run (changes.length + 2) (s.feed (.invoke k op :: (changes.map .deviceChange ++ [.reply r]))) =
        .next { s with
          control := (s.deviceChanges changes).control
          trace := s.trace ++ [readCall u register]
          results := s.results ++ [(k, res)] } ∧
      (∀ w ws, r = .ok (w :: ws) → (w :: ws).length = register.count → res = register.decodeResult w) ∧
      (∀ ws, r = .ok ws → ws.length ≠ register.count → res = .error (.transportError .malformedResponse)) ∧
      (∀ f landed, r = .failed f landed → res = .error (.transportError f)) := by
  refine ⟨register.readResult r, run_read h hl hop r changes, ?_, ?_, ?_⟩
  · rintro w ws rfl hlength
    rw [StatusRegister.readResult, Reply.firstWord_of_length_eq hlength]
  · rintro ws rfl hlength
    rw [StatusRegister.readResult, Reply.firstWord_of_length_ne hlength]
  · rintro f landed rfl
    rfl

/-- The same where the read asks for one word. -/
theorem run_wordRead_result {s : State} {k : Nat} {u : Byte} {op : SessionOp} {register : StatusRegister}
    (h : s.At k u .idle) (hl : s.link = none) (hop : s.begin k u op = s.startRead k u register)
    (hcount : register.count = 1) (r : Reply) (changes : List DeviceChange) :
    ∃ res : Result,
      run (changes.length + 2) (s.feed (.invoke k op :: (changes.map .deviceChange ++ [.reply r]))) =
        .next { s with
          control := (s.deviceChanges changes).control
          trace := s.trace ++ [.readInput u register.address 1]
          results := s.results ++ [(k, res)] } ∧
      (∀ w : Word, r = .ok [w] → res = register.decodeResult w) ∧
      (∀ ws : List Word, r = .ok ws → ws.length ≠ 1 → res = .error (.transportError .malformedResponse)) ∧
      (∀ f landed, r = .failed f landed → res = .error (.transportError f)) := by
  obtain ⟨res, hrun, hwords, hlength, hfailed⟩ := run_read_result h hl hop r changes
  rw [readCall, hcount] at hrun
  exact ⟨res, hrun, fun w hr => hwords w [] hr hcount.symm, fun ws hr hne => hlength ws hr (hcount ▸ hne), hfailed⟩

/-- Settles O31, as the read of STATUS, which asks for two words. -/
theorem readStatus : Obligations.ReadStatus := by
  intro s k u r changes h hl
  obtain ⟨res, hrun, hwords, hlength, hfailed⟩ :=
    run_read_result (op := .readStatus) (register := .status) h hl rfl r changes
  exact ⟨res, hrun, fun w0 w1 hr => hwords w0 [w1] hr rfl, hlength, hfailed⟩

/-- Settles O32, as the read of one register for each of the four operations. -/
theorem singleWordReads : Obligations.SingleWordReads := by
  intro s k u r op offset value changes h hl hmem
  simp only [List.mem_cons, Prod.mk.injEq, List.not_mem_nil, or_false] at hmem
  rcases hmem with ⟨rfl, rfl, rfl⟩ | ⟨rfl, rfl, rfl⟩ | ⟨rfl, rfl, rfl⟩ | ⟨rfl, rfl, rfl⟩
  · exact run_wordRead_result (register := .faultPosition) h hl rfl rfl r changes
  · exact run_wordRead_result (register := .speedForce) h hl rfl rfl r changes
  · exact run_wordRead_result (register := .voltageTemperature) h hl rfl rfl r changes
  · exact run_wordRead_result (register := .softwareInfo) h hl rfl rfl r changes

/-! ### Writes -/

/-- The devices' registers after the writes `ws` of a session at the address `u`, in order. -/
def State.landWrites (s : State) (u : Byte) : List ControlWrite → State
  | [] => s
  | w :: ws => (s.land (writeCall u w)).landWrites u ws

@[simp] theorem State.landWrites_nil (s : State) (u : Byte) : s.landWrites u [] = s := rfl

@[simp] theorem State.landWrites_cons (s : State) (u : Byte) (w : ControlWrite) (ws : List ControlWrite) :
    s.landWrites u (w :: ws) = (s.land (writeCall u w)).landWrites u ws := rfl

theorem State.landWrites_control_congr {s t : State} (h : t.control = s.control) (u : Byte) (ws : List ControlWrite) :
    (t.landWrites u ws).control = (s.landWrites u ws).control := by
  induction ws generalizing s t with
  | nil => exact h
  | cons w ws ih => exact ih (State.land_control_congr h _)

/-- What the control registers hold once a write of a session has landed. -/
theorem State.controlWord_land_writeCall (s : State) (u v : Byte) (w : ControlWrite) (a : Word) :
    (s.land (writeCall u w)).controlWord v a = if v = u ∧ a = w.register.address then w.word else s.controlWord v a :=
  s.controlWord_land_single u v w.register.address a w.word

/-- The inputs that answer the later writes of a composite: for each, its session goes on and the write succeeds. -/
def writeTurns (k : Nat) : List (ControlWrite × List Word) → List Event
  | [] => []
  | (_, ws) :: later => .resume k :: .reply (.ok ws) :: writeTurns k later

/-- The state in which a session awaits the answer to the next write of a composite, the one before having succeeded. -/
def State.nextWrite (s : State) (k : Nat) (u : Byte) (now next : ControlWrite) (later : List ControlWrite) : State :=
  ((s.freeLink.land (writeCall u now)).setActivity k (.answered next later)).await k (.writing next later)
    (writeCall u next)

theorem State.nextWrite_idle_sessions (s : State) (k : Nat) (u : Byte) (now next : ControlWrite)
    (later : List ControlWrite) :
    ((s.nextWrite k u now next later).setActivity k .idle).sessions = (s.setActivity k .idle).sessions := by
  rw [State.nextWrite, State.await_setActivity_sessions, State.setActivity_setActivity]
  rfl

/-- Between two writes of a composite: the one outstanding succeeds, and the session goes on to the next. -/
theorem run_next_write {s : State} {k : Nat} {u : Byte} {now next : ControlWrite} {later : List ControlWrite}
    (h : s.At k u (.writing now (next :: later))) (hl : s.link = some { session := k, call := writeCall u now })
    (ws : List Word) (n : Nat) (es : List Event) :
    run (n + 2) (s.feed (.reply (.ok ws) :: .resume k :: es)) = run n ((s.nextWrite k u now next later).feed es) := by
  have hlanded : (s.freeLink.land (writeCall u now)).At k u (.writing now (next :: later)) := h.freeLink.land _
  rw [run_feed_reply_writing hl h]
  exact run_feed_next_write rfl (hlanded.setActivity _) n es

/-- From an outstanding write of a composite to its return: every later write goes out in its turn and lands. -/
theorem run_writes (later : List (ControlWrite × List Word)) {s : State} {k : Nat} {u : Byte} {now : ControlWrite}
    (h : s.At k u (.writing now (later.map Prod.fst))) (hl : s.link = some { session := k, call := writeCall u now })
    (ws : List Word) :
    run (2 * later.length + 1) (s.feed (.reply (.ok ws) :: writeTurns k later)) =
      .next { s with
        sessions := (s.setActivity k .idle).sessions
        link := none
        trace := s.trace ++ (later.map Prod.fst).map (writeCall u)
        results := s.results ++ [(k, .done)]
        control := (s.landWrites u (now :: later.map Prod.fst)).control } := by
  induction later generalizing s now ws with
  | nil =>
    rw [run_feed_reply_writing hl h, List.map_nil, List.map_nil, List.append_nil]
    rfl
  | cons turn later ih =>
    obtain ⟨next, ws'⟩ := turn
    have hnext : (s.nextWrite k u now next (later.map Prod.fst)).At k u (.writing next (later.map Prod.fst)) :=
      ((h.freeLink.land _).setActivity _).await _ _
    have hcontrol := State.landWrites_control_congr (s := s.land (writeCall u now))
      (t := s.nextWrite k u now next (later.map Prod.fst)) rfl u (next :: later.map Prod.fst)
    calc run (2 * later.length + 1 + 2)
            (s.feed (.reply (.ok ws) :: .resume k :: .reply (.ok ws') :: writeTurns k later))
        = run (2 * later.length + 1) ((s.nextWrite k u now next (later.map Prod.fst)).feed
            (.reply (.ok ws') :: writeTurns k later)) := run_next_write h hl ws _ _
      _ = _ := by
        rw [ih hnext rfl ws', State.nextWrite_idle_sessions, hcontrol, List.map_cons, List.map_cons,
          List.append_cons s.trace]
        rfl

/-- An operation made of writes, from its start to its return, every write succeeding. -/
theorem run_writeOperation {s : State} {k : Nat} {u : Byte} {op : SessionOp} {now : ControlWrite}
    (later : List (ControlWrite × List Word)) (h : s.At k u .idle) (hl : s.link = none)
    (hop : s.begin k u op = s.startWrites k u (now, later.map Prod.fst)) (ws : List Word) :
    run (2 * later.length + 2) (s.feed (.invoke k op :: .reply (.ok ws) :: writeTurns k later)) =
      .next { s with
        trace := s.trace ++ (now :: later.map Prod.fst).map (writeCall u)
        results := s.results ++ [(k, .done)]
        control := (s.landWrites u (now :: later.map Prod.fst)).control } := by
  have hcontrol := State.landWrites_control_congr (s := s)
    (t := s.await k (.writing now (later.map Prod.fst)) (writeCall u now)) rfl u (now :: later.map Prod.fst)
  rw [run_feed_invoke h hl op (2 * later.length + 1), hop, State.startWrites, State.startWrite_eq,
    run_writes later (h.await _ _) rfl, State.await_setActivity_sessions, h.setActivity_eq, hcontrol, List.map_cons,
    List.append_cons s.trace, ← hl]
  rfl

/-- An operation that is one write: it is issued, and its register alone changes. -/
theorem run_singleWrite {s : State} {k : Nat} {u : Byte} {op : SessionOp} {w : ControlWrite} (h : s.At k u .idle)
    (hl : s.link = none) (hop : s.begin k u op = s.startWrites k u (w, [])) (ws : List Word) :
    ∃ t : State,
      run 2 (s.feed [.invoke k op, .reply (.ok ws)]) = .next t ∧
      t = { s with
        trace := s.trace ++ [writeCall u w]
        results := s.results ++ [(k, .done)]
        control := t.control } ∧
      (∀ (v : Byte) (a : Word), t.controlWord v a =
        if v = u ∧ a = w.register.address then w.word else s.controlWord v a) :=
  ⟨_, run_writeOperation [] h hl hop ws, rfl, fun v a =>
    (State.controlWord_congr rfl v a).trans (s.controlWord_land_writeCall u v w a)⟩

/-- Settles O33, as one write of the word the encoder answers. -/
theorem singleWrites : Obligations.SingleWrites := by
  intro s k u op offset w ws h hl hop
  rcases hop with ⟨cmd, b, rfl, rfl, hw⟩ | ⟨pos, rfl, rfl, hw⟩ | ⟨speed, force, rfl, rfl, hw⟩
  · rw [exec_encControl, answer_eq_next_iff, Response.encControl.injEq] at hw
    obtain ⟨-, rfl⟩ := hw
    exact run_singleWrite (w := (writeControl cmd).1) h hl rfl ws
  · rw [exec_encPosition, answer_eq_next_iff, Response.encPosition.injEq] at hw
    subst hw
    exact run_singleWrite (w := (setTargetPosition pos).1) h hl rfl ws
  · rw [exec_encSpeedForce, answer_eq_next_iff, Response.encSpeedForce.injEq] at hw
    subst hw
    exact run_singleWrite (w := (setSpeedForce speed force).1) h hl rfl ws

/-- Settles O34, as one write of CONTROL for each of the four operations. -/
theorem helperCommandWords : Obligations.HelperCommandWords := by
  intro s k u op w ws h hl hmem
  simp only [List.mem_cons, Prod.mk.injEq, List.not_mem_nil, or_false] at hmem
  rcases hmem with ⟨rfl, rfl⟩ | ⟨rfl, rfl⟩ | ⟨rfl, rfl⟩ | ⟨rfl, rfl⟩
  · exact run_singleWrite (w := { register := .control, word := 0x0000#16 }) h hl rfl ws
  · exact run_singleWrite (w := { register := .control, word := 0x0001#16 }) h hl rfl ws
  · exact run_singleWrite (w := { register := .control, word := 0x0009#16 }) h hl rfl ws
  · exact run_singleWrite (w := { register := .control, word := 0x0001#16 }) h hl rfl ws

/-! ### Composites -/

/-- An address is that of one control register. -/
theorem ControlRegister.not_both_addresses {r r' : ControlRegister} (hne : r ≠ r') {u v : Byte} {a : Word}
    (h : v = u ∧ a = r.address) : ¬ (v = u ∧ a = r'.address) :=
  fun h' => ControlRegister.address_ne hne (h.2.symm.trans h'.2)

/-- What the registers hold after the writes of `moveToPosition` (42_host_sequences.md R144). -/
theorem State.controlWord_landWrites_two (s : State) (u v : Byte) (a p c : Word) :
    (s.landWrites u [{ register := .position, word := p }, { register := .control, word := c }]).controlWord v a =
      if v = u ∧ a = ControlRegister.position.address then p
      else if v = u ∧ a = ControlRegister.control.address then c
      else s.controlWord v a := by
  simp only [State.landWrites_cons, State.landWrites_nil, State.controlWord_land_writeCall]
  apply ite_ite_comm
  exact ControlRegister.not_both_addresses (by decide)

/-- What the registers hold after the writes of `executeControlMovement` (42_host_sequences.md R145). -/
theorem State.controlWord_landWrites_four (s : State) (u v : Byte) (a f p c : Word) :
    (s.landWrites u [{ register := .speedForce, word := f }, { register := .position, word := p },
      { register := .control, word := c }, { register := .control, word := c }]).controlWord v a =
      if v = u ∧ a = ControlRegister.speedForce.address then f
      else if v = u ∧ a = ControlRegister.position.address then p
      else if v = u ∧ a = ControlRegister.control.address then c
      else s.controlWord v a := by
  simp only [State.landWrites_cons, State.landWrites_nil, State.controlWord_land_writeCall]
  by_cases hspeed : v = u ∧ a = ControlRegister.speedForce.address
  · have hpos := ControlRegister.not_both_addresses (r' := .position) (by decide) hspeed
    have hcontrol := ControlRegister.not_both_addresses (r' := .control) (by decide) hspeed
    simp only [if_pos hspeed, if_neg hpos, if_neg hcontrol]
  · by_cases hcontrol : v = u ∧ a = ControlRegister.control.address
    · have hpos := ControlRegister.not_both_addresses (r' := .position) (by decide) hcontrol
      simp only [if_pos hcontrol, if_neg hspeed, if_neg hpos]
    · simp only [if_neg hspeed, if_neg hcontrol]

/-- Settles O36, as two writes of different registers. -/
theorem moveToPositionWritesInOrder : Obligations.MoveToPositionWritesInOrder := by
  intro s k u pos ws ws' h hl
  have hrun := run_writeOperation (op := .moveToPosition pos) (now := { register := .position, word := pos <<< 8 })
    [({ register := .control, word := 0x0009#16 }, ws')] h hl rfl ws
  exact ⟨_, hrun, rfl, fun v a => s.controlWord_landWrites_two u v a (pos <<< 8) 0x0009#16⟩

/-- Settles O39, as four writes, of which the last two are the same. -/
theorem executeControlMovementWritesInOrder : Obligations.ExecuteControlMovementWritesInOrder := by
  intro s k u speed force pos w1 w2 w3 w4 h hl
  have hop : s.begin k u (.executeControlMovement speed force pos) =
      s.startWrites k u ({ register := .speedForce, word := force ++ speed },
        [{ register := .position, word := pos <<< 8 }, { register := .control, word := 0x0009#16 },
          { register := .control, word := 0x0009#16 }]) := by
    rw [← packPair_eq_append]
    rfl
  have hrun := run_writeOperation [({ register := .position, word := pos <<< 8 }, w2),
    ({ register := .control, word := 0x0009#16 }, w3), ({ register := .control, word := 0x0009#16 }, w4)] h hl hop w1
  exact ⟨_, hrun, rfl, fun v a => s.controlWord_landWrites_four u v a (force ++ speed) (pos <<< 8) 0x0009#16⟩

/-- An operation whose first write fails and does not land: no later write goes out, and nothing else is changed. -/
theorem run_failed_firstWrite {s : State} {k : Nat} {u : Byte} {op : SessionOp} {now : ControlWrite}
    {later : List ControlWrite} (h : s.At k u .idle) (hl : s.link = none)
    (hop : s.begin k u op = s.startWrites k u (now, later)) (f : TransportFailure) :
    run 2 (s.feed [.invoke k op, .reply (.failed f false)]) =
      .next { s with
        trace := s.trace ++ [writeCall u now]
        results := s.results ++ [(k, .error (.transportError f))] } := by
  have hreturned := h.finish_eq (m := (s.await k (.writing now later) (writeCall u now)).freeLink) rfl
    (.error (.transportError f))
  rw [run_feed_invoke h hl op 1, hop]
  calc run 1 ((s.startWrites k u (now, later)).feed [.reply (.failed f false)])
      = .next ((s.await k (.writing now later) (writeCall u now)).freeLink.raise k (.transportError f)) :=
        run_feed_reply_writing rfl (h.await _ _) (.failed f false) 0 []
    _ = _ := by
      rw [State.raise, hreturned, hl]
      rfl

/-- Settles O42, by the first write of `moveToPosition`. -/
theorem failedFirstWriteStopsComposite : Obligations.FailedFirstWriteStopsComposite :=
  fun _ _ _ pos f h hl => run_failed_firstWrite (op := .moveToPosition pos) (now := (setTargetPosition pos).1)
    (later := [executeMove.1]) h hl rfl f

end Sys2Proof.Machine
end

section
/-! SUPPORT. 42_host_sequences.md R146, R147, R152: one turn of either wait, what ends each of them, and
cancellation. -/

namespace Sys2Proof.Machine

open Sys2Proof

/-! ### A turn of either wait -/

/-- A wait starts with a poll. -/
theorem step_start_wait {s : State} {k : Nat} {u : Byte} {op : SessionOp} {wait : Wait} (h : s.At k u .idle)
    (hl : s.link = none) (hop : s.begin k u op = s.poll k u wait) :
    ∃ t, step (s.feed [.invoke k op]) = .next t ∧ t.At k u (.polling wait) ∧
      (∀ j, j ≠ k → t.sessions[j]? = s.sessions[j]?) ∧
      t = { s with
        sessions := t.sessions
        link := some { session := k, call := readCall u .status }
        trace := s.trace ++ [readCall u .status] } := by
  refine ⟨s.await k (.polling wait) (readCall u .status), ?_, h.await _ _,
    fun j hj => State.setActivity_other hj _, rfl⟩
  rw [step_feed_invoke, State.feed_nil, invoke_of_idle h op hl, hop, State.poll_eq]

/-- Out of its sleep a wait polls again. -/
theorem step_wake_wait {s : State} {k : Nat} {u : Byte} {wait : Wait} {wakeTime : Nat}
    (h : s.At k u (.sleeping wait wakeTime)) (hl : s.link = none) :
    ∃ t, step (s.feed [.resume k]) = .next t ∧ t.At k u (.polling wait) ∧
      (∀ j, j ≠ k → t.sessions[j]? = s.sessions[j]?) ∧
      t = { s with
        sessions := t.sessions
        clock := max s.clock wakeTime
        link := some { session := k, call := readCall u .status }
        trace := s.trace ++ [readCall u .status] } :=
  ⟨_, resume_of_sleeping (s := s) hl h, (h.wake wakeTime).await _ _, fun _ hj => State.setActivity_other hj _, rfl⟩

/-- An answered poll leaves the rest as it is: the wait ends or sleeps. -/
theorem step_answer_poll {s : State} {k : Nat} {u : Byte} {c : Call} {wait : Wait} (h : s.At k u (.polling wait))
    (hl : s.link = some { session := k, call := c }) (r : Reply) :
    step (s.feed [.reply r]) = .next (s.freeLink.afterPoll k wait r) ∧
      (∀ j, j ≠ k → (s.freeLink.afterPoll k wait r).sessions[j]? = s.sessions[j]?) ∧
      s.freeLink.afterPoll k wait r =
        { s with
          sessions := (s.freeLink.afterPoll k wait r).sessions
          link := none
          results := (s.freeLink.afterPoll k wait r).results } := by
  refine ⟨complete_of_polling (s := s) hl h r, ?_⟩
  rcases s.freeLink.afterPoll_cases k wait r with ⟨res, ht⟩ | ht <;> rw [ht]
  · exact ⟨fun j hj => State.setActivity_other hj _, rfl⟩
  · exact ⟨fun j hj => State.setActivity_other hj _, rfl⟩

/-- A poll answered with other than two words ends either wait (20_memory.md R62). -/
theorem State.afterPoll_of_length_ne {ws : List Word} (h : ws.length ≠ 2) (s : State) (k : Nat) (wait : Wait) :
    s.afterPoll k wait (.ok ws) = s.raise k (.transportError .malformedResponse) := by
  rw [State.afterPoll, Reply.firstWord_of_length_ne (n := StatusRegister.status.count) h]

theorem step_malformed_poll {s : State} {k : Nat} {u : Byte} {c : Call} {wait : Wait} {ws : List Word}
    (h : s.At k u (.polling wait)) (hl : s.link = some { session := k, call := c }) (hws : ws.length ≠ 2) :
    ∃ t, step (s.feed [.reply (.ok ws)]) = .next t ∧ t.At k u .idle ∧
      (∀ j, j ≠ k → t.sessions[j]? = s.sessions[j]?) ∧
      t = { s with
        sessions := t.sessions
        link := none
        results := s.results ++ [(k, .error (.transportError .malformedResponse))] } := by
  refine ⟨s.freeLink.raise k (.transportError .malformedResponse), ?_, h.freeLink.finish _,
    fun j hj => State.setActivity_other hj _, rfl⟩
  rw [← State.afterPoll_of_length_ne hws s.freeLink k wait]
  exact complete_of_polling (s := s) hl h (.ok ws)

/-! ### `waitForMove` -/

theorem decodeStatus_motionState (w : Word) : (decodeStatus w).motionState = w.extractLsb' 6 2 :=
  twoBitField_eq_extract w 6

/-- Settles O44: a poll, the exit test on the answer, the sleep. -/
theorem waitForMoveLoop : Obligations.WaitForMoveLoop := by
  refine ⟨fun s k u h hl => step_start_wait (op := .waitForMove) h hl rfl, ?_,
    fun s k u c cancelled ws h hl hws => step_malformed_poll h hl hws,
    fun s k u wakeTime cancelled h hl => step_wake_wait h hl⟩
  intro s k u c cancelled w0 w1 h hl
  obtain ⟨hstep, hothers, hframe⟩ := step_answer_poll h hl (.ok [w0, w1])
  have htest : s.freeLink.afterPoll k (.move cancelled) (.ok [w0, w1]) =
      if w0.extractLsb' 6 2 ≠ 0#2 then s.freeLink.finish k .done
      else if cancelled then s.freeLink.finish k .cancelled
      else s.freeLink.sleep k (.move cancelled) := by
    rw [← decodeStatus_motionState]
    rfl
  refine ⟨_, hstep, hothers, hframe, fun hstopped => ?_, fun hmoving hc => ?_, fun hmoving hc => ?_⟩
  · rw [htest, if_pos hstopped]
    exact ⟨h.freeLink.finish _, rfl⟩
  · rw [htest, if_neg (not_not.mpr hmoving), if_pos hc]
    exact ⟨h.freeLink.finish _, rfl⟩
  · subst hc
    rw [htest, if_neg (not_not.mpr hmoving), if_neg Bool.false_ne_true]
    exact ⟨h.freeLink.sleep _, rfl⟩

/-! ### Cancellation -/

theorem cancel_of_at {s : State} {k : Nat} {u : Byte} {a : Activity} (h : s.At k u a) :
    cancel k s = .next (s.setActivity k a.withCancel) := by
  rw [State.At] at h
  simp [cancel, h]

theorem run_feed_cancel {s : State} {k : Nat} {u : Byte} {a : Activity} (h : s.At k u a) (n : Nat) (es : List Event) :
    run (n + 1) (s.feed (.cancel k :: es)) = run n ((s.setActivity k a.withCancel).feed es) :=
  run_succ_of_next (cancel_of_at (s := s.feed es) h)

/-- Only a `waitForMove` has a place for the signal. -/
theorem Activity.withCancel_eq_self {a : Activity} (hp : ∀ cancelled, a ≠ .polling (.move cancelled))
    (hs : ∀ cancelled wakeTime, a ≠ .sleeping (.move cancelled) wakeTime) : a.withCancel = a := by
  cases a with
  | idle | writing _ _ | answered _ _ | reading _ => rfl
  | polling wait =>
    cases wait with
    | move cancelled => exact absurd rfl (hp cancelled)
    | activation deadline => rfl
  | sleeping wait wakeTime =>
    cases wait with
    | move cancelled => exact absurd rfl (hs cancelled wakeTime)
    | activation deadline => rfl

/-- Settles O47: the signal is kept where the wait is suspended, and the answered poll finds it. -/
theorem cancellationEndsWaitForMove : Obligations.CancellationEndsWaitForMove := by
  refine ⟨fun s k u wakeTime r h hl hr => ?_, fun s k u c cancelled r h hl hr => ?_, fun s k u a h hp hs => ?_⟩
  · have hsleeping := h.setActivity (.sleeping (.move true) wakeTime)
    have hpolling := (hsleeping.wake wakeTime).await (.polling (.move true)) (readCall u .status)
    rw [run_feed_cancel h, Activity.withCancel, run_feed_wake (s := s.setActivity k _) hl hsleeping,
      run_feed_reply_polling rfl hpolling,
      State.afterPoll_of_stillMoving hr, if_pos rfl]
    refine ⟨_, rfl, hpolling.freeLink.finish _, fun j hj => ?_, by rw [hl]; rfl⟩
    simp [Ne.symm hj]
  · have hpolling := h.setActivity (.polling (.move true))
    rw [run_feed_cancel h, Activity.withCancel, run_feed_reply_polling (s := s.setActivity k _) hl hpolling,
      State.afterPoll_of_stillMoving hr, if_pos rfl]
    refine ⟨_, rfl, hpolling.freeLink.finish _, fun j hj => ?_, rfl⟩
    simp [Ne.symm hj]
  · rw [step_feed_cancel, State.feed_nil, cancel_of_at h, Activity.withCancel_eq_self hp hs, h.setActivity_eq]

/-! ### `waitForActivation` -/

theorem decodeStatus_activationState (w : Word) : (decodeStatus w).activationState = w.extractLsb' 4 2 :=
  twoBitField_eq_extract w 4

/-- ACTIVATED ends the wait before the deadline, and after it where LATE_SUCCESS_COUNTS. -/
theorem State.activationTest_done {s : State} {deadline : Nat} {st : GripperStatus} (h : st.activationState = 3#2)
    (hlate : s.clock < deadline ∨ Config.lateSuccessCounts = true) (k : Nat) :
    s.activationTest k deadline st = s.finish k .done := by
  rw [State.activationTest, if_pos h, if_pos h]
  split
  · rfl
  · next hcounts => exact if_neg (not_le.mpr (hlate.resolve_right hcounts))

/-- At or after the deadline the wait times out without ACTIVATED, and with it unless LATE_SUCCESS_COUNTS. -/
theorem State.activationTest_timeout {s : State} {deadline : Nat} {st : GripperStatus} (h : deadline ≤ s.clock)
    (hlate : st.activationState ≠ 3#2 ∨ Config.lateSuccessCounts = false) (k : Nat) :
    s.activationTest k deadline st = s.raise k .timeoutError := by
  rw [State.activationTest, if_pos h, if_pos h]
  split
  · next hcounts => exact if_neg (hlate.resolve_right (by simp [hcounts]))
  · rfl

/-- Before the deadline and without ACTIVATED the wait sleeps. -/
theorem State.activationTest_sleep {s : State} {deadline : Nat} {st : GripperStatus} (h : st.activationState ≠ 3#2)
    (hbefore : s.clock < deadline) (k : Nat) :
    s.activationTest k deadline st = s.sleep k (.activation deadline) := by
  have hnotPast := not_le.mpr hbefore
  rw [State.activationTest, if_neg h, if_neg hnotPast, if_neg hnotPast, if_neg h, ite_self]

theorem State.afterPoll_activation (s : State) (k deadline : Nat) (w0 w1 : Word) :
    s.afterPoll k (.activation deadline) (.ok [w0, w1]) = s.activationTest k deadline (decodeStatus w0) := rfl

/-- Settles O48: a poll, the exit test and the deadline test on the answer, the sleep. -/
theorem waitForActivationLoop : Obligations.WaitForActivationLoop := by
  refine ⟨fun s k u h hl => step_start_wait (op := .waitForActivation) h hl rfl, ?_,
    fun s k u c deadline ws h hl hws => step_malformed_poll h hl hws,
    fun s k u wakeTime deadline h hl => step_wake_wait h hl⟩
  intro s k u c deadline w0 w1 h hl
  obtain ⟨hstep, hothers, hframe⟩ := step_answer_poll h hl (.ok [w0, w1])
  refine ⟨_, hstep, hothers, hframe, fun hactivated hlate => ?_, fun hpast hlate => ?_, fun hnot hbefore => ?_⟩
  all_goals rw [State.afterPoll_activation]
  · rw [State.activationTest_done (s := s.freeLink) ((decodeStatus_activationState w0).trans hactivated) hlate]
    exact ⟨h.freeLink.finish _, rfl⟩
  · rw [← decodeStatus_activationState] at hlate
    rw [State.activationTest_timeout (s := s.freeLink) hpast hlate]
    exact ⟨h.freeLink.finish _, rfl⟩
  · rw [← decodeStatus_activationState] at hnot
    rw [State.activationTest_sleep (s := s.freeLink) hnot hbefore]
    exact ⟨h.freeLink.sleep _, rfl⟩

/-! ### Several turns of `waitForActivation` -/

theorem activationStateName_eq_activated_iff {n : BitVec 2} : activationStateName n = .activated ↔ n = 3#2 := by
  revert n
  decide

/-- A turn of `waitForActivation` that does not end it: it sleeps for POLL_PERIOD, wakes on time and has its next poll
outstanding. -/
theorem run_activation_turn {s : State} {k : Nat} {u : Byte} {c : Call} {deadline : Nat} {w0 : Word}
    (h : s.At k u (.polling (.activation deadline))) (hl : s.link = some { session := k, call := c })
    (hnot : (decodeStatus w0).activationState ≠ 3#2) (hbefore : s.clock < deadline) (w1 : Word) :
    ∃ t : State,
      (∀ n es, run (n + 2) (s.feed (.reply (.ok [w0, w1]) :: .resume k :: es)) = run n (t.feed es)) ∧
      t.At k u (.polling (.activation deadline)) ∧ t.link = some { session := k, call := readCall u .status } ∧
      t.clock = s.clock + Config.pollPeriod ∧ t.trace = s.trace ++ [readCall u .status] ∧ t.results = s.results := by
  have hsleeping := h.freeLink.sleep (.activation deadline)
  refine ⟨_, fun n es => ?_, (hsleeping.wake _).await _ (readCall u .status), rfl,
    max_eq_right (Nat.le_add_right s.clock Config.pollPeriod), rfl, rfl⟩
  rw [run_feed_reply_polling hl h, State.afterPoll_activation,
    State.activationTest_sleep (s := s.freeLink) hnot hbefore]
  exact run_feed_wake rfl hsleeping n es

/-- The turn of `waitForActivation` that finds ACTIVATED before the deadline. -/
theorem run_activation_end {s : State} {k : Nat} {u : Byte} {c : Call} {deadline : Nat} {w0 : Word}
    (h : s.At k u (.polling (.activation deadline))) (hl : s.link = some { session := k, call := c })
    (hactivated : (decodeStatus w0).activationState = 3#2) (hbefore : s.clock < deadline) (w1 : Word) :
    run 1 (s.feed [.reply (.ok [w0, w1])]) = .next (s.freeLink.finish k .done) := by
  rw [run_feed_reply_polling hl h, State.afterPoll_activation,
    State.activationTest_done (s := s.freeLink) hactivated (.inl hbefore)]
  rfl

/-- Settles O49, as two turns and the one that ends the wait, all before the deadline. -/
theorem activationAfterThreePolls : Obligations.ActivationAfterThreePolls := by
  intro s k u call deadline a b c a' b' c' h hl hdeadline ha hb hc
  have hnot {w : Word} (hw : activationStateName (decodeStatus w).activationState = .activating) :
      (decodeStatus w).activationState ≠ 3#2 := fun h3 => by
    cases hw.symm.trans (activationStateName_eq_activated_iff.mpr h3)
  obtain ⟨s1, hrun1, h1, hl1, hclock1, htrace1, hresults1⟩ := run_activation_turn h hl (hnot ha) (by omega) a'
  obtain ⟨s2, hrun2, h2, hl2, hclock2, htrace2, hresults2⟩ := run_activation_turn h1 hl1 (hnot hb) (by omega) b'
  have hend := run_activation_end h2 hl2 (activationStateName_eq_activated_iff.mp hc) (by omega) c'
  refine ⟨s2.freeLink.finish k .done, ?_, h2.freeLink.finish _, ?_, ?_, ?_⟩
  · rw [hrun1 3, hrun2 1, hend]
  · rw [State.finish_results, State.freeLink_results, hresults2, hresults1]
  · rw [State.finish_clock, State.freeLink_clock, hclock2, hclock1]
    omega
  · rw [State.finish_trace, State.freeLink_trace, htrace2, htrace1, List.append_assoc]
    rfl

end Sys2Proof.Machine
end

section
/-! SUPPORT. 60_exceptions.md R161 to R163: which step hands an error to a caller, and what it says of the input and of the
state before. -/

namespace Sys2Proof.Machine

open Sys2Proof

/-! ### A step that hands over an error -/

/-- From `s` to `t` session `k` has handed the error `e` to its caller, and nothing else has been returned. -/
def State.Raises (s t : State) (k : Nat) (e : HostError) : Prop :=
  t.results = s.results ++ [(k, .error e)]

theorem State.not_raises {s t : State} {k : Nat} {e : HostError} (h : t.results = s.results) : ¬ s.Raises t k e := by
  simp [State.Raises, h]

/-- An operation that ends raises exactly the error it ends with. -/
theorem State.raises_finish_iff {s m : State} {j k : Nat} {res : Result} {e : HostError}
    (hm : m.results = s.results) : s.Raises (m.finish j res) k e ↔ j = k ∧ res = .error e := by
  simp [State.Raises, hm]

theorem State.raises_raise_iff {s m : State} {j k : Nat} {e e' : HostError} (hm : m.results = s.results) :
    s.Raises (m.raise j e') k e ↔ j = k ∧ e' = e := by
  simp [State.Raises, hm]

/-! ### Starting and going on -/

theorem State.setDeviceAddress_raises {s : State} {j k : Nat} {a : Byte} {e : HostError}
    (h : s.Raises (s.setDeviceAddress j a) k e) : j = k ∧ e = .configurationError a ∧ 247 < a.toNat := by
  rcases Nat.lt_or_ge 247 a.toNat with ha | ha
  · rw [State.setDeviceAddress_of_illegal ha] at h
    obtain ⟨hjk, he⟩ := (State.raises_raise_iff rfl).mp h
    exact ⟨hjk, he.symm, ha⟩
  · rw [State.setDeviceAddress_of_legal ha] at h
    cases ((State.raises_finish_iff rfl).mp h).2

/-- Of the operations that start, only the setter of the address can raise at once. -/
theorem invoke_raises {j k : Nat} {op : SessionOp} {s t : State} {e : HostError} (h : invoke j op s = .next t)
    (he : s.Raises t k e) :
    ∃ u a, j = k ∧ op = .setDeviceAddress a ∧ e = .configurationError a ∧ 247 < a.toNat ∧ s.At k u .idle := by
  obtain ⟨u, hidle, -, rfl⟩ := invoke_next h
  rcases s.begin_cases j u op with ⟨a, hop, ht⟩ | ⟨a, c, -, ht⟩ <;> rw [ht] at he
  · obtain ⟨rfl, herror, ha⟩ := State.setDeviceAddress_raises he
    exact ⟨u, a, rfl, hop, herror, ha, hidle⟩
  · exact absurd he (State.not_raises rfl)

theorem resume_results {k : Nat} {s t : State} (h : resume k s = .next t) : t.results = s.results := by
  obtain ⟨-, u, a, b, c, m, -, -, -, rfl | ⟨wakeTime, rfl⟩, rfl⟩ := resume_effect h
  · rfl
  · rfl

/-! ### The answer to a call -/

/-- A read that yields no first word has failed, or its answer has another number of words (20_memory.md R62). -/
theorem Reply.eq_of_firstWord_eq_error {n : Nat} (hn : n ≠ 0) {r : Reply} {f : TransportFailure}
    (h : r.firstWord n = .error f) :
    (∃ landed, r = .failed f landed) ∨ (∃ ws, f = .malformedResponse ∧ r = .ok ws ∧ ws.length ≠ n) := by
  rcases r.firstWord_cases hn with ⟨w, ws, -, -, hr⟩ | ⟨ws, hws, hlength, hr⟩ | ⟨f', landed, hfailed, hr⟩ <;>
    cases hr.symm.trans h
  · exact .inr ⟨ws, rfl, hws, hlength⟩
  · exact .inl ⟨landed, hfailed⟩

/-- A status read that yields its first word was answered with two. -/
theorem Reply.eq_of_firstWord_status_eq_ok {r : Reply} {w : Word}
    (h : r.firstWord StatusRegister.status.count = .ok w) : ∃ w1, r = .ok [w, w1] := by
  rcases r.firstWord_cases StatusRegister.status.count_ne_zero with
    ⟨w', ws, hws, hlength, hr⟩ | ⟨_, -, -, hr⟩ | ⟨_, _, -, hr⟩ <;> cases hr.symm.trans h
  obtain ⟨w1, rfl⟩ := List.length_eq_one_iff.mp (Nat.succ.inj hlength)
  exact ⟨w1, hws⟩

theorem StatusRegister.count_eq (register : StatusRegister) :
    register.count = if register = .status then 2 else 1 := by
  cases register <;> rfl

theorem StatusRegister.decodeResult_ne_error (register : StatusRegister) (w : Word) (e : HostError) :
    register.decodeResult w ≠ .error e := by
  cases register <;> exact Result.noConfusion

/-- Only a failed write raises. -/
theorem State.afterWrite_raises {s : State} {j k : Nat} {c : Call} {later : List ControlWrite} {r : Reply}
    {e : HostError} (h : s.Raises (s.afterWrite j c later r) k e) :
    j = k ∧ ∃ f landed, e = .transportError f ∧ r = .failed f landed := by
  rcases s.afterWrite_cases j c later r with ⟨ws, -, -, ht⟩ | ⟨ws, next, rest, -, -, ht⟩ | ⟨f, hr, ht⟩ | ⟨f, hr, ht⟩ <;>
    rw [ht] at h
  · cases ((State.raises_finish_iff (s.land_results c)).mp h).2
  · exact absurd h (State.not_raises (s.land_results c))
  · obtain ⟨hjk, he⟩ := (State.raises_raise_iff (s.land_results c)).mp h
    exact ⟨hjk, f, true, he.symm, hr⟩
  · obtain ⟨hjk, he⟩ := (State.raises_raise_iff rfl).mp h
    exact ⟨hjk, f, false, he.symm, hr⟩

/-- Only a read without a first word raises. -/
theorem State.afterRead_raises {s : State} {j k : Nat} {register : StatusRegister} {r : Reply} {e : HostError}
    (h : s.Raises (s.afterRead j register r) k e) :
    j = k ∧ ∃ f, e = .transportError f ∧ r.firstWord register.count = .error f := by
  rw [State.afterRead] at h
  split at h
  · exact absurd ((State.raises_finish_iff rfl).mp h).2 (register.decodeResult_ne_error _ e)
  · next f hr =>
    obtain ⟨hjk, he⟩ := (State.raises_raise_iff rfl).mp h
    exact ⟨hjk, f, he.symm, hr⟩

theorem State.moveTest_not_raises (s : State) (j k : Nat) (cancelled : Bool) (st : GripperStatus) (e : HostError) :
    ¬ s.Raises (s.moveTest j cancelled st) k e := by
  intro h
  simp only [State.moveTest] at h
  split at h
  · cases ((State.raises_finish_iff rfl).mp h).2
  · split at h
    · cases ((State.raises_finish_iff rfl).mp h).2
    · exact State.not_raises rfl h

/-- The tests of `waitForActivation` raise at or after the deadline only, and not on ACTIVATED where
LATE_SUCCESS_COUNTS. -/
theorem State.activationTest_raises {s : State} {j k deadline : Nat} {st : GripperStatus} {e : HostError}
    (h : s.Raises (s.activationTest j deadline st) k e) :
    j = k ∧ e = .timeoutError ∧ deadline ≤ s.clock ∧
      (Config.lateSuccessCounts = true → st.activationState ≠ 3#2) := by
  by_cases hdone : st.activationState = 3#2 ∧ (s.clock < deadline ∨ Config.lateSuccessCounts = true)
  · obtain ⟨hactivated, hcounts⟩ := hdone
    rw [State.activationTest_done hactivated hcounts] at h
    cases ((State.raises_finish_iff rfl).mp h).2
  rcases Nat.lt_or_ge s.clock deadline with hbefore | hpast
  · rw [State.activationTest_sleep (fun hactivated => hdone ⟨hactivated, .inl hbefore⟩) hbefore] at h
    exact absurd h (State.not_raises rfl)
  · have hlate : Config.lateSuccessCounts = true → st.activationState ≠ 3#2 :=
      fun hcounts hactivated => hdone ⟨hactivated, .inr hcounts⟩
    rw [State.activationTest_timeout hpast ((Bool.eq_false_or_eq_true _).imp_left hlate)] at h
    obtain ⟨hjk, he⟩ := (State.raises_raise_iff rfl).mp h
    exact ⟨hjk, he.symm, hpast, hlate⟩

/-- A poll raises without a first word, and in `waitForActivation` by its deadline. -/
theorem State.afterPoll_raises {s : State} {j k : Nat} {wait : Wait} {r : Reply} {e : HostError}
    (h : s.Raises (s.afterPoll j wait r) k e) :
    j = k ∧
      ((∃ f, e = .transportError f ∧ r.firstWord StatusRegister.status.count = .error f) ∨
       (∃ deadline w0 w1, wait = .activation deadline ∧ e = .timeoutError ∧ r = .ok [w0, w1] ∧ deadline ≤ s.clock ∧
          (Config.lateSuccessCounts = true → w0.extractLsb' 4 2 ≠ 3#2))) := by
  simp only [State.afterPoll] at h
  split at h
  · next f hr =>
    obtain ⟨hjk, he⟩ := (State.raises_raise_iff rfl).mp h
    exact ⟨hjk, .inl ⟨f, he.symm, hr⟩⟩
  · next w hr =>
    obtain ⟨w1, hwords⟩ := Reply.eq_of_firstWord_status_eq_ok hr
    cases wait with
    | move cancelled => exact absurd h (s.moveTest_not_raises j k cancelled _ e)
    | activation deadline =>
      obtain ⟨hjk, he, hpast, hlate⟩ := State.activationTest_raises h
      rw [decodeStatus_activationState] at hlate
      exact ⟨hjk, .inr ⟨deadline, w, w1, rfl, he, hwords, hpast, hlate⟩⟩

/-- The answer `r` is a reason for session `k` to fail with `f`: the call failed, or a read was answered with another
number of words than it asked for (20_memory.md R62). -/
def State.FailsBy (s : State) (k : Nat) (r : Reply) (f : TransportFailure) : Prop :=
  (∃ landed, r = .failed f landed) ∨
  (∃ (u : Byte) (ws : List Word), f = .malformedResponse ∧ r = .ok ws ∧
    ((∃ register, s.At k u (.reading register) ∧ ws.length ≠ if register = .status then 2 else 1) ∨
     (∃ wait, s.At k u (.polling wait) ∧ ws.length ≠ 2)))

theorem State.At.failsBy_of_reading {s : State} {k : Nat} {u : Byte} {register : StatusRegister} {r : Reply}
    {f : TransportFailure} (h : s.At k u (.reading register)) (hr : r.firstWord register.count = .error f) :
    s.FailsBy k r f := by
  refine (Reply.eq_of_firstWord_eq_error register.count_ne_zero hr).imp_right ?_
  rintro ⟨ws, hf, hws, hlength⟩
  exact ⟨u, ws, hf, hws, .inl ⟨register, h, register.count_eq ▸ hlength⟩⟩

theorem State.At.failsBy_of_polling {s : State} {k : Nat} {u : Byte} {wait : Wait} {r : Reply}
    {f : TransportFailure} (h : s.At k u (.polling wait)) (hr : r.firstWord StatusRegister.status.count = .error f) :
    s.FailsBy k r f := by
  refine (Reply.eq_of_firstWord_eq_error StatusRegister.status.count_ne_zero hr).imp_right ?_
  rintro ⟨ws, hf, hws, hlength⟩
  exact ⟨u, ws, hf, hws, .inr ⟨wait, h, hlength⟩⟩

/-- What an answer raises, it raises in the session that waits for it: a failure of the call, or the deadline of
`waitForActivation`. -/
theorem complete_raises {r : Reply} {s t : State} {k : Nat} {e : HostError} (h : complete r s = .next t)
    (he : s.Raises t k e) :
    ∃ c, s.link = some { session := k, call := c } ∧
      ((∃ f, e = .transportError f ∧ s.FailsBy k r f) ∨
       (∃ u deadline w0 w1, e = .timeoutError ∧ s.At k u (.polling (.activation deadline)) ∧ r = .ok [w0, w1] ∧
          deadline ≤ s.clock ∧ (Config.lateSuccessCounts = true → w0.extractLsb' 4 2 ≠ 3#2))) := by
  obtain ⟨⟨j, c⟩, ⟨u, activity⟩, hl, hx, ⟨now, later, rfl, rfl⟩ | ⟨register, rfl, rfl⟩ | ⟨wait, rfl, rfl⟩⟩ :=
    complete_next h
  · obtain ⟨rfl, f, landed, herror, hr⟩ := State.afterWrite_raises (s := s.freeLink) he
    exact ⟨c, hl, .inl ⟨f, herror, .inl ⟨landed, hr⟩⟩⟩
  · obtain ⟨rfl, f, herror, hr⟩ := State.afterRead_raises (s := s.freeLink) he
    exact ⟨c, hl, .inl ⟨f, herror, State.At.failsBy_of_reading hx hr⟩⟩
  · obtain ⟨rfl, ⟨f, herror, hr⟩ | ⟨deadline, w0, w1, rfl, herror, hr, hpast, hlate⟩⟩ :=
      State.afterPoll_raises (s := s.freeLink) he
    · exact ⟨c, hl, .inl ⟨f, herror, State.At.failsBy_of_polling hx hr⟩⟩
    · exact ⟨c, hl, .inr ⟨u, deadline, w0, w1, herror, hx, hr, hpast, hlate⟩⟩

/-- Settles O43: of the inputs only the start of an operation and an answer hand over an error. -/
theorem hostErrorsHaveTheirCauses : Obligations.HostErrorsHaveTheirCauses := by
  intro s t k e h he
  change s.Raises t k e at he
  rcases step_next h with ⟨-, rfl⟩ | ⟨_, _, _, -, rfl⟩ | ⟨_, -, rfl⟩ | ⟨_, op, rest, hin, ht⟩ | ⟨_, _, -, ht⟩ |
    ⟨r, rest, hin, ht⟩ | ⟨_, _, -, ht⟩ | ⟨_, _, -, rfl⟩ | ⟨_, _, -, rfl⟩
  · exact absurd he (State.not_raises rfl)
  · exact absurd he (State.not_raises rfl)
  · exact absurd he (State.not_raises rfl)
  · obtain ⟨u, a, rfl, rfl, herror, ha, hidle⟩ := invoke_raises ht he
    exact .inl ⟨u, a, rest, herror, ha, hidle, hin⟩
  · exact absurd he (State.not_raises (resume_results ht :))
  · obtain ⟨c, hl, ⟨f, herror, hfails⟩ | ⟨u, deadline, w0, w1, herror, hat, rfl, hpast, hlate⟩⟩ :=
      complete_raises ht he
    · exact .inr (.inl ⟨c, r, f, rest, herror, hl, hin, hfails⟩)
    · exact .inr (.inr ⟨u, c, deadline, w0, w1, rest, herror, hl, hat, hin, hpast, hlate⟩)
  · obtain ⟨x, -, rfl⟩ := cancel_next ht
    exact absurd he (State.not_raises rfl)
  · exact absurd he (State.not_raises rfl)
  · exact absurd he (State.not_raises rfl)

end Sys2Proof.Machine
end

section
/-! SUPPORT. 70_reset_and_hazards.md R180 to R182, R191, R193, R196: the start, new sessions, operations that are the
same, and time. -/

namespace Sys2Proof.Machine

open Sys2Proof

/-! ### The start, and new sessions -/

/-- An address is a byte, which UNIT_ID_INIT fits (00_scope.md R7). -/
theorem Session.fresh_unitId_toNat : Session.fresh.unitId.toNat = Config.unitIdInit.val := by
  have hinit := Config.unitIdInit.isLt
  rw [Session.fresh, BitVec.toNat_ofNat, Nat.mod_eq_of_lt (by omega)]

/-- A device no register of which was written holds the words it had from the start (10_state.md R48). -/
theorem State.controlWord_of_control_nil {s : State} (h : s.control = []) (u : Byte) (a : Word) :
    s.controlWord u a = Config.deviceResetWord u a := by
  rw [State.controlWord, h, Memory.read, Option.getD_none]

/-- Settles O60: what the reset state lists, and what it leaves unlisted. -/
theorem startState : Obligations.StartState :=
  ⟨Session.fresh.unitId, Session.fresh_unitId_toNat, Session.fresh_address_legal, rfl, rfl, rfl, rfl, rfl, rfl,
    State.controlWord_of_control_nil rfl⟩

/-- Settles O58: the one session is idle at a legal address, and nothing else is listed. -/
theorem resetMeetsTheInvariant : Obligations.ResetMeetsTheInvariant where
  legalAddresses := List.forall_mem_singleton.mpr Session.fresh_address_legal
  linkMatches _ hlink := by cases hlink
  suspended _ x hx := by
    obtain rfl := List.mem_singleton.mp (List.mem_of_getElem? hx)
    exact .inl rfl
  traceMapped := List.forall_mem_nil _
  controlWf := reset_control_wf
  controlMapped := List.forall_mem_nil _

theorem step_feed_openSession (s : State) : step (s.feed [.openSession]) = .next s.openSession := rfl

/-- A new session takes the place after the last. -/
theorem State.openSession_at (s : State) : s.openSession.At s.sessions.length Session.fresh.unitId .idle :=
  List.getElem?_concat_length

/-- Settles O56: the new session is added at the end of the list. -/
theorem newSessionStartsIdle : Obligations.NewSessionStartsIdle := by
  intro s
  refine ⟨s.openSession, Session.fresh.unitId, step_feed_openSession s, Session.fresh_unitId_toNat, s.openSession_at,
    List.length_append, fun j hj => ?_, rfl⟩
  exact List.getElem?_append_left hj

/-! ### Operations that are the same -/

/-- Operations that do the same once started, and are refused alike, are the same operation. -/
theorem step_feed_invoke_congr {op op' : SessionOp} (hbegin : ∀ s k u, State.begin s k u op = State.begin s k u op')
    (hbusy : op.busyRefusal = op'.busyRefusal) (s : State) (k : Nat) (es : List Event) :
    step (s.feed (.invoke k op :: es)) = step (s.feed (.invoke k op' :: es)) := by
  simp only [step_feed_invoke, invoke, hbegin, hbusy]

/-- Settles O35: `stop` and `activate` send the same write. -/
theorem stopIsActivate : Obligations.StopIsActivate := by
  intro s k n es
  have hstep := step_feed_invoke_congr (op := .stop) (op' := .activate) (fun _ _ _ => rfl) rfl s k es
  rw [run_succ, run_succ, hstep]

theorem setTargetPosition_mod (pos : Word) :
    setTargetPosition (BitVec.ofNat 16 (pos.toNat % 256)) = setTargetPosition pos := by
  have hword : positionWordOf (BitVec.ofNat 16 (pos.toNat % 256)) = positionWordOf pos :=
    positionWordOf_congr (by rw [BitVec.toNat_ofNat]; omega)
  rw [setTargetPosition, setTargetPosition, hword]

theorem moveToPosition_mod (pos : Word) :
    moveToPosition (BitVec.ofNat 16 (pos.toNat % 256)) = moveToPosition pos := by
  rw [moveToPosition, setTargetPosition_mod, moveToPosition]

theorem executeControlMovement_mod (speed force : Byte) (pos : Word) :
    executeControlMovement speed force (BitVec.ofNat 16 (pos.toNat % 256)) =
      executeControlMovement speed force pos := by
  rw [executeControlMovement, moveToPosition_mod, executeControlMovement]

/-- Settles O40: each of the three sends the same writes for both targets, since the position word loses the high byte. -/
theorem silentPositionWrap : Obligations.SilentPositionWrap := by
  intro s k pos speed force
  refine ⟨step_feed_invoke_congr (fun t j u => ?_) (by rfl) s k [],
    step_feed_invoke_congr (fun t j u => ?_) (by rfl) s k [],
    step_feed_invoke_congr (fun t j u => ?_) (by rfl) s k []⟩
  · rw [State.begin, State.begin, setTargetPosition_mod]
  · rw [State.begin, State.begin, moveToPosition_mod]
  · rw [State.begin, State.begin, executeControlMovement_mod]

/-! ### Time -/

theorem invoke_clock {k : Nat} {op : SessionOp} {s t : State} (h : invoke k op s = .next t) : t.clock = s.clock := by
  obtain ⟨u, -, -, rfl⟩ := invoke_next h
  rcases s.begin_cases k u op with ⟨a, -, ht⟩ | ⟨a, c, -, ht⟩ <;> rw [ht]
  · obtain ⟨res, hframe⟩ := s.setDeviceAddress_frame k a
    rw [hframe]
  · rfl

/-- Going on moves the clock only out of a sleep, to its end. -/
theorem resume_clock {k : Nat} {s t : State} (h : resume k s = .next t) :
    t.clock = s.clock ∨
      ∃ u wait wakeTime, s.At k u (.sleeping wait wakeTime) ∧ t.clock = max s.clock wakeTime := by
  obtain ⟨-, u, ⟨wait, wakeTime, ha, rfl⟩ | ⟨next, later, -, rfl⟩⟩ := resume_next h
  · exact .inr ⟨u, wait, wakeTime, ha, rfl⟩
  · exact .inl rfl

/-- An answer takes no time. -/
theorem complete_clock {r : Reply} {s t : State} (h : complete r s = .next t) : t.clock = s.clock := by
  obtain ⟨f, x, m, -, -, hm, ht⟩ := complete_effect h
  have hclock : m.clock = s.clock := by
    rcases hm with rfl | ⟨-, rfl⟩
    · rfl
    · exact s.freeLink.land_clock f.call
  rcases ht with ⟨res, rfl⟩ | ⟨now, next, rest, -, rfl⟩ | ⟨wait, -, rfl⟩
  · exact hclock
  · exact hclock
  · exact hclock

theorem cancel_clock {k : Nat} {s t : State} (h : cancel k s = .next t) : t.clock = s.clock := by
  obtain ⟨x, -, rfl⟩ := cancel_next h
  rfl

/-- What a step does to the clock: nothing; or time passes by an input; or a sleep ends. -/
theorem step_clock {s t : State} (h : step s = .next t) :
    t.clock = s.clock ∨
    (∃ d rest, s.events = .elapse d :: rest ∧ t.clock = s.clock + d) ∨
    (∃ k u wait wakeTime rest, s.events = .resume k :: rest ∧ s.At k u (.sleeping wait wakeTime) ∧
      t.clock = max s.clock wakeTime) := by
  rcases step_next h with ⟨-, rfl⟩ | ⟨_, _, _, -, rfl⟩ | ⟨_, -, rfl⟩ | ⟨_, _, _, -, ht⟩ | ⟨k, rest, he, ht⟩ |
    ⟨_, _, -, ht⟩ | ⟨_, _, -, ht⟩ | ⟨d, rest, he, rfl⟩ | ⟨_, _, -, rfl⟩
  · exact .inl rfl
  · exact .inl rfl
  · exact .inl rfl
  · exact .inl (invoke_clock ht :)
  · rcases resume_clock ht with hclock | ⟨u, wait, wakeTime, ha, hclock⟩
    · exact .inl hclock
    · exact .inr (.inr ⟨k, u, wait, wakeTime, rest, he, ha, hclock⟩)
  · exact .inl (complete_clock ht :)
  · exact .inl (cancel_clock ht :)
  · exact .inr (.inl ⟨d, rest, he, rfl⟩)
  · exact .inl rfl

theorem step_feed_elapse (s : State) (d : Nat) : step (s.feed [.elapse d]) = .next (s.elapse d) := rfl

/-- Settles O57, by the three ways of a step with the clock, of which none turns it back. -/
theorem timePassesByElapseOrAtSleepEnd : Obligations.TimePassesByElapseOrAtSleepEnd := by
  refine ⟨step_feed_elapse, fun s t h => ?_⟩
  rcases step_clock h with hclock | ⟨d, rest, he, hclock⟩ | ⟨k, u, wait, wakeTime, rest, he, ha, hclock⟩
  · exact ⟨hclock.ge, fun hne => absurd hclock hne⟩
  · exact ⟨by omega, fun _ => .inl ⟨d, rest, he⟩⟩
  · exact ⟨by omega, fun _ => .inr ⟨k, u, wait, wakeTime, rest, he, ha, by omega⟩⟩

end Sys2Proof.Machine
end

section
/-! SUPPORT. 70_reset_and_hazards.md R187, 42_host_sequences.md R150: between two writes of a composite the link is free, and
other sessions can use it. -/

namespace Sys2Proof.Machine

open Sys2Proof

/-! ### A write with others to follow -/

/-- A call that reaches its device changes the control registers alone. -/
theorem State.land_eq (s : State) (c : Call) : s.land c = { s with control := (s.land c).control } := by
  cases c with
  | readInput => rfl
  | writeRegs => rfl

/-- A write with others to follow succeeds: the session is suspended at the answer, and the link is free. -/
theorem State.afterWrite_ok_cons (s : State) (k : Nat) (c : Call) (next : ControlWrite) (later : List ControlWrite)
    (ws : List Word) :
    s.afterWrite k c (next :: later) (.ok ws) = (s.land c).setActivity k (.answered next later) := rfl

/-- Settles O38, by the answer to a write with others to follow, and by the going on from it. -/
theorem linkIsFreeBetweenWrites : Obligations.LinkIsFreeBetweenWrites := by
  refine ⟨fun s k u c now next later ws h hl => ?_, fun s k u next later h hl => ?_⟩
  · have hcontrol : (s.freeLink.land c).control = (s.land c).control :=
      State.land_control_congr (s := s) (t := s.freeLink) rfl c
    refine ⟨_, complete_of_writing (s := s) hl h (.ok ws), (h.freeLink.land c).setActivity _, fun j hj => ?_, ?_⟩
    · rw [State.afterWrite_ok_cons, State.setActivity_other hj, State.land_sessions, State.freeLink_sessions]
    · rw [State.afterWrite_ok_cons, ← hcontrol, State.land_eq]
      rfl
  · exact ⟨_, resume_of_answered (s := s) hl h, h.await _ _, fun j hj => State.setActivity_other hj _, rfl⟩

/-! ### Another session in between -/

/-- A run goes on from the state its first `m` steps answer. -/
theorem run_add_of_next {m : Nat} {s t : State} (h : run m s = .next t) (n : Nat) : run (m + n) s = run n t := by
  induction m generalizing s with
  | zero =>
    cases h
    rw [Nat.zero_add]
  | succ m ih =>
    obtain ⟨q, hstep, hrun⟩ := run_succ_eq_next h
    rw [Nat.add_right_comm, run_succ_of_next hstep, ih hrun]

theorem State.feed_append (s : State) (es es' : List Event) : s.feed (es ++ es') = (s.feed es').feed es := by
  rw [State.feed, List.append_assoc]
  rfl

/-- `s` after session `j`, at the address `v`, had `r` as the answer to a read of a status register, with the devices'
changes while the read was outstanding. -/
def State.afterOtherRead (s : State) (j : Nat) (v : Byte) (register : StatusRegister) (r : Reply)
    (changes : List DeviceChange) : State :=
  { s with
    control := (s.deviceChanges changes).control
    trace := s.trace ++ [readCall v register]
    results := s.results ++ [(j, register.readResult r)] }

/-- Between two writes of session `k` an idle session can read, from its start to its return, and then `k` goes on. -/
theorem run_read_between_writes {s : State} {j k : Nat} {u v : Byte} {op : SessionOp} {register : StatusRegister}
    {next : ControlWrite} {later : List ControlWrite} (hk : s.At k u (.answered next later)) (hj : s.At j v .idle)
    (hl : s.link = none) (hop : ∀ m : State, m.begin j v op = m.startRead j v register) (r : Reply)
    (changes : List DeviceChange) :
    run (changes.length + 3) (s.feed (.invoke j op :: (changes.map .deviceChange ++ [.reply r, .resume k]))) =
      .next ((s.afterOtherRead j v register r changes).await k (.writing next later) (writeCall u next)) := by
  have hinputs : s.feed (.invoke j op :: (changes.map .deviceChange ++ [.reply r, .resume k])) =
      (s.feed [.resume k]).feed (.invoke j op :: (changes.map .deviceChange ++ [.reply r])) := by
    rw [← State.feed_append, List.cons_append, List.append_assoc]
    rfl
  have hread := run_read (s := s.feed [.resume k]) hj hl (hop _) r changes
  rw [State.deviceChanges_control_congr (State.feed_control s [.resume k]) changes] at hread
  rw [hinputs, run_add_of_next hread 1]
  exact run_feed_next_write (s := s.afterOtherRead j v register r changes) hl hk 0 []

/-! ### `moveToPosition` -/

/-- `s` after session `k` has started an operation of writes and the first has succeeded, with `next` and `later` to
follow. -/
def State.afterFirstWrite (s : State) (k : Nat) (u : Byte) (now next : ControlWrite)
    (later : List ControlWrite) : State :=
  ((s.await k (.writing now (next :: later)) (writeCall u now)).freeLink.land (writeCall u now)).setActivity k
    (.answered next later)

theorem run_firstWrite {s : State} {k : Nat} {u : Byte} {op : SessionOp} {now next : ControlWrite}
    {later : List ControlWrite} (h : s.At k u .idle) (hl : s.link = none)
    (hop : s.begin k u op = s.startWrites k u (now, next :: later)) (ws : List Word) :
    run 2 (s.feed [.invoke k op, .reply (.ok ws)]) = .next (s.afterFirstWrite k u now next later) := by
  rw [run_feed_invoke h hl op 1, hop]
  exact run_feed_reply_writing rfl (h.await _ _) (.ok ws) 0 []

theorem State.At.afterFirstWrite {s : State} {k : Nat} {u : Byte} {a : Activity} (h : s.At k u a)
    (now next : ControlWrite) (later : List ControlWrite) :
    (s.afterFirstWrite k u now next later).At k u (.answered next later) :=
  ((h.await _ _).freeLink.land _).setActivity _

/-- The other sessions stand where they stood. -/
theorem State.At.afterFirstWrite_other {s : State} {j k : Nat} {v : Byte} {a : Activity} (h : s.At j v a)
    (hjk : j ≠ k) (u : Byte) (now next : ControlWrite) (later : List ControlWrite) :
    (s.afterFirstWrite k u now next later).At j v a := by
  rw [State.At, State.afterFirstWrite, State.setActivity_other hjk, State.land_sessions, State.freeLink_sessions,
    State.await_sessions, State.setActivity_other hjk, h]

/-- The first write is in its register, and the rest hold what they held. -/
theorem State.controlWord_afterFirstWrite (s : State) (k : Nat) (u v : Byte) (now next : ControlWrite)
    (later : List ControlWrite) (a : Word) :
    (s.afterFirstWrite k u now next later).controlWord v a =
      if v = u ∧ a = now.register.address then now.word else s.controlWord v a :=
  (State.controlWord_congr rfl v a).trans (s.controlWord_land_writeCall u v now a)

/-- Settles O37: after the first of the two writes the link is free, so an idle session can read before the second goes
out. -/
theorem compositeIntermediateStateShows : Obligations.CompositeIntermediateStateShows := by
  intro s k u pos ws h hl
  have hrun := run_firstWrite (op := .moveToPosition pos) (now := (setTargetPosition pos).1) (next := executeMove.1)
    (later := []) h hl rfl ws
  have hword := s.controlWord_afterFirstWrite k u u (setTargetPosition pos).1 executeMove.1 []
  have hsuspended := h.afterFirstWrite (setTargetPosition pos).1 executeMove.1 []
  refine ⟨_, hrun, (hword _).trans (if_pos ⟨rfl, rfl⟩), (hword _).trans (if_neg fun hposition => ?_), rfl, rfl,
    fun j v r changes hjk hj => ?_⟩
  · exact ControlRegister.address_ne (r := .control) (r' := .position) (by decide) hposition.2
  · have hidle := hj.afterFirstWrite_other hjk u (setTargetPosition pos).1 executeMove.1 []
    have hread := run_read_between_writes (op := .readStatus) hsuspended hidle rfl (fun _ => rfl) r changes
    refine ⟨_, _, hread, ?_, rfl, rfl, rfl⟩
    exact (List.append_assoc (s.trace ++ [_]) [_] [_]).trans (List.append_assoc s.trace [_] [_, _])

end Sys2Proof.Machine
end
